-- ==== Sys2Proof/Word.lean ====
section
/-! DEFINITION. The word types of the block (spec/10_state.md R21, spec/00_scope.md R11): every quantity is unsigned. -/

namespace Sys2Proof

/-- A byte: 8 bits, unsigned (R11). -/
abbrev Byte := BitVec 8

/-- A 16-bit field: SIZE, OFS, COUNT, and the `length` field of a frame (R21, R61). -/
abbrev Half := BitVec 16

/-- A 32-bit field: KEY, VAL (R21). -/
abbrev Word := BitVec 32

/-- The request record as one word: OP 3, BUFP 1, SIZE 16, CLS 8, ID 8, KEY 32, VALP 1, VAL 32, VW 8, OFS 16,
COUNT 16 bits (R21), 141 in all. The order inside the word is the model's: DESIGN CHOICE, log 1. -/
abbrev RequestWord := BitVec 141

end Sys2Proof
end

