-- ==== Sys2Proof/Config.lean ====
section
/-! DEFINITION. The parameters of the block, spec/00_scope.md R9, each "as a configuration field", with the widths of the
host's config keys (spec/30_encoding.md R67) and which of two rules the host takes a response's size from. A field the
source fixes holds the source's value alone; what the spec marks OPEN or "from general knowledge, not in source" ranges
over its type, so that a statement is proved for every value. -/

namespace Sys2Proof

/-- A parameter the source fixes: a field of this type holds its one value and no other, so that what is stated for every
configuration is stated for the source's value. -/
abbrev Fixed {α : Type} (v : α) : Type := { x : α // x = v }

/-- The source's value. -/
def Fixed.value {α : Type} {v : α} : Fixed v := ⟨v, rfl⟩

/-- The least BUFFER_CAPACITY: the longest frame an encoder writes, 6 + 12 + 2 bytes (R10). -/
abbrev minCapacity : Nat := 20

/-- The width of a config key's value, "1/2/4-byte" (R67). -/
inductive ValueWidth where
  | one
  | two
  | four
  deriving DecidableEq, Repr

/-- The width in bytes. -/
def ValueWidth.bytes : ValueWidth → Nat
  | .one => 1
  | .two => 2
  | .four => 4

/-- A config key "paired with" the width of its value (R67). -/
structure ConfigItem where
  key : Word
  width : ValueWidth
  deriving DecidableEq, Repr

/-- Where `validate_response` takes its SIZE from; the rules differ where the last receive was no read that ended well, and
spec/90_conflicts.md has no ruling (log 33). -/
inductive ValidateSize where
  /-- the size `read` declares, 100 (spec/49_host_driver.md R157) -/
  | declared
  /-- the received byte count (spec/30_encoding.md R83, spec/10_state.md R26) -/
  | received
  deriving DecidableEq, Repr

/-- The parameters of R9 and R67, and log 33's. OVERHEAD, MAX_PAYLOAD and LAYER_MASK, which R9 gives by formula, are
functions of them. -/
structure Config where
  /-- SYNC1 (fixed by the source) -/
  sync1 : Fixed (0xB5 : Byte)
  /-- SYNC2 (fixed) -/
  sync2 : Fixed (0x62 : Byte)
  /-- HEADER_LEN, bytes before the payload (fixed) -/
  headerLen : Fixed 6
  /-- CHECKSUM_LEN (fixed) -/
  checksumLen : Fixed 2
  /-- CFG_VERSION, Config-Set payload byte 0 (fixed) -/
  cfgVersion : Fixed (0x00 : Byte)
  /-- LAYER_RAM (fixed) -/
  layerRam : Fixed (0x01 : Byte)
  /-- CFG_HDR_LEN, Config-Set bytes before the value (fixed) -/
  cfgHdrLen : Fixed 8
  /-- MAX_VALUE_WIDTH (fixed) -/
  maxValueWidth : Fixed 4
  /-- ACK_PAYLOAD_LEN (fixed) -/
  ackPayloadLen : Fixed 2
  /-- NAV_STATUS_LEN (fixed) -/
  navStatusLen : Fixed 16
  /-- NAV_PVT_LEN (fixed) -/
  navPvtLen : Fixed 92
  /-- BUFFER_CAPACITY less its least value 20: any of 0 to 65515, so that the bounds 20 and 65535 of R9 hold by
  construction. -/
  extra : Fin 65516
  /-- LAYER_BBR; the source's literal is 0x10 (93 U9, D14). -/
  layerBbr : Byte
  /-- CLS_NAV -/
  clsNav : Byte
  /-- CLS_ACK -/
  clsAck : Byte
  /-- CLS_CFG -/
  clsCfg : Byte
  /-- ID_NAV_STATUS -/
  idNavStatus : Byte
  /-- ID_NAV_PVT -/
  idNavPvt : Byte
  /-- ID_ACK_NAK -/
  idAckNak : Byte
  /-- ID_ACK_ACK -/
  idAckAck : Byte
  /-- ID_CFG_VALSET -/
  idCfgValset : Byte
  /-- KEY_I2COUTPROT_UBX -/
  keyUbx : Word
  /-- KEY_I2COUTPROT_NMEA -/
  keyNmea : Word
  /-- KEY_RATE_MEAS -/
  keyRate : Word
  /-- the width of KEY_I2COUTPROT_UBX's value (fixed, R67) -/
  ubxWidth : Fixed ValueWidth.one
  /-- the width of KEY_I2COUTPROT_NMEA's value (93 GK6, log 34) -/
  nmeaWidth : ValueWidth
  /-- the width of KEY_RATE_MEAS's value (93 GK6, log 34) -/
  rateWidth : ValueWidth
  /-- the catalogue's keys beside those three: how many there are the source does not say (91 N3), DESIGN CHOICE, log 35 -/
  moreItems : List ConfigItem
  /-- the size `validate_response` passes (log 33) -/
  validateSize : ValidateSize
  /-- SETTLE_DELAY_MS: what the host asks the transport to wait; no rule of the block depends on it (R164, log 26). -/
  settleDelayMs : Nat
  deriving DecidableEq, Repr

/-- BUFFER_CAPACITY (R9, R10). -/
def Config.bufferCapacity (c : Config) : Nat := minCapacity + c.extra.val

/-- OVERHEAD = HEADER_LEN + CHECKSUM_LEN (R9). -/
def Config.overhead (c : Config) : Nat := c.headerLen.val + c.checksumLen.val

/-- MAX_PAYLOAD = BUFFER_CAPACITY - OVERHEAD (R9, R61). -/
def Config.maxPayload (c : Config) : Nat := c.bufferCapacity - c.overhead

/-- LAYER_MASK = LAYER_RAM | LAYER_BBR, Config-Set payload byte 1 (R9, R64). -/
def Config.layerMask (c : Config) : Byte := c.layerRam.val ||| c.layerBbr

/-- "I2C output protocol UBX enable" (R67). -/
def Config.itemUbx (c : Config) : ConfigItem where
  key := c.keyUbx
  width := c.ubxWidth.val

/-- "I2C output protocol NMEA enable" (R67). -/
def Config.itemNmea (c : Config) : ConfigItem where
  key := c.keyNmea
  width := c.nmeaWidth

/-- "measurement-rate period" (R67). -/
def Config.itemRate (c : Config) : ConfigItem where
  key := c.keyRate
  width := c.rateWidth

/-- The config-key catalogue, "a closed set known at compile time" (R67); the block does not check KEY against it. It is the
three keys R67 lists and whatever others there are: "Do not assume the catalogue has exactly three keys" (91 N3). That none
follows them in `Config.standard` is the model's choice (DESIGN CHOICE, log 35). -/
def Config.catalogue (c : Config) : List ConfigItem := [c.itemUbx, c.itemNmea, c.itemRate] ++ c.moreItems

/-- R9's own requirement on the named parameters: "The only structural requirement on the named class, id and key
parameters is ID_ACK_NAK ≠ ID_ACK_ACK." -/
def Config.wf (c : Config) : Bool := c.idAckNak != c.idAckAck

/-- R9's default values, at the buffer capacity `20 + extra`. PRESUMED (by the spec itself, from general knowledge) for
the class, id and key numbers (log 7) and for two of the widths (log 34); DESIGN CHOICE for the want of further keys (log 35)
and for the size of log 33. -/
def Config.withExtra (extra : Fin 65516) : Config where
  sync1 := Fixed.value
  sync2 := Fixed.value
  headerLen := Fixed.value
  checksumLen := Fixed.value
  cfgVersion := Fixed.value
  layerRam := Fixed.value
  cfgHdrLen := Fixed.value
  maxValueWidth := Fixed.value
  ackPayloadLen := Fixed.value
  navStatusLen := Fixed.value
  navPvtLen := Fixed.value
  extra := extra
  layerBbr := 0x10
  clsNav := 0x01
  clsAck := 0x05
  clsCfg := 0x06
  idNavStatus := 0x03
  idNavPvt := 0x07
  idAckNak := 0x00
  idAckAck := 0x01
  idCfgValset := 0x8A
  keyUbx := 0x10720001
  keyNmea := 0x10720002
  keyRate := 0x30210001
  ubxWidth := Fixed.value
  nmeaWidth := .one
  rateWidth := .two
  moreItems := []
  validateSize := .declared
  settleDelayMs := 1000

/-- R9's defaults with BUFFER_CAPACITY 128, the value the spec's vectors take. DESIGN CHOICE for the capacity (OPEN in
R9), log 6. -/
def Config.standard : Config := Config.withExtra 108

end Sys2Proof
end

