-- ==== Sys2Proof/Syntax.lean ====
section
/-! DEFINITION. The instructions: one constructor per row of spec/opcode_table.json. Rows of format "request" are the
eight operations of spec/30_encoding.md R80 with the operands R22 says each reads; rows of format "ubx_frame" are the
frame kinds of R60, R64, R65, R66. Then the two ports a word comes in on, and why bytes are no frame. -/

namespace Sys2Proof

/-- One constructor per row of the opcode table. `bufp` is BUFP: true, a buffer is bound to the request. -/
inductive Instr where
  /-- PREPCMD (R100). -/
  | prepcmd (bufp : Bool) (cls id : Byte)
  /-- PREPCFG (R104). -/
  | prepcfg (bufp : Bool) (key : Word) (valp : Bool) (val : Word) (vw : Byte)
  /-- CKSUM (R121). -/
  | cksum (bufp : Bool) (ofs count : Half)
  /-- VALPKT (R130). -/
  | valpkt (bufp : Bool) (size : Half) (cls id : Byte)
  /-- VALACK (R135). -/
  | valack (bufp : Bool) (size : Half) (cls id : Byte)
  /-- PREPCFG.U1 (R105): VAL[7:0] is its value operand. -/
  | prepcfgU1 (bufp : Bool) (key : Word) (val : Byte)
  /-- PREPCFG.U2 (R106): VAL[15:0]. -/
  | prepcfgU2 (bufp : Bool) (key : Word) (val : Half)
  /-- PREPCFG.U4 (R107): VAL[31:0]. -/
  | prepcfgU4 (bufp : Bool) (key : Word) (val : Word)
  /-- UBX.HEADER (R60): any frame that is none of the kinds below; `payload.length` is its length field. -/
  | ubxHeader (cls id : Byte) (payload : List Byte) (ckA ckB : Byte)
  /-- UBX.CFG-VALSET (R64): the key and the value bytes, least significant first. -/
  | ubxCfgValset (key : Word) (value : List Byte) (ckA ckB : Byte)
  /-- UBX.ACK-ACK (R65): the echoed class and id. -/
  | ubxAckAck (cls id ckA ckB : Byte)
  /-- UBX.ACK-NAK (R65): the echoed class and id. -/
  | ubxAckNak (cls id ckA ckB : Byte)
  /-- UBX.NAV-PVT.POLL (R66): the whole frame is fixed. -/
  | ubxNavPvtPoll
  /-- UBX.NAV-PVT (R66): 92 opaque payload bytes. -/
  | ubxNavPvt (payload : List Byte) (ckA ckB : Byte)
  /-- UBX.NAV-STATUS (R66): 16 opaque payload bytes. -/
  | ubxNavStatus (payload : List Byte) (ckA ckB : Byte)
  deriving DecidableEq, Repr

/-- A word as it reaches the machine: the request record on the request port (R21), or the bytes of one bus
transaction in ascending offset order (R40). -/
inductive PortWord where
  | request (w : RequestWord)
  | wire (bytes : List Byte)
  deriving DecidableEq, Repr

/-- Why the bytes of a bus transaction are not one whole frame (R60, R62). -/
inductive FrameError where
  /-- fewer than the 6 header bytes -/
  | noHeader
  /-- the first two bytes are not the sync bytes -/
  | badSync
  /-- fewer bytes than `8 + length` -/
  | truncated
  /-- more bytes than `8 + length` -/
  | trailing
  deriving DecidableEq, Repr

end Sys2Proof
end

