-- ==== Sys2Proof/Machine/Operands.lean ====
section
/-! DEFINITION. Operand assembly: little-endian bytes (spec/20_memory.md R41, spec/00_scope.md R12), the length field
(spec/30_encoding.md R70), the Config-Set payload (R64, R68, R69) and the frame layout (R60). -/

namespace Sys2Proof

/-- The `n` low bytes of `v`, least significant first: `(v div 256^k) mod 256` for k = 0 .. n-1 (R12, R41, R68). -/
def bytesLE : Nat → Nat → List Byte
  | 0, _ => []
  | n + 1, v => BitVec.ofNat 8 v :: bytesLE n (v / 256)

/-- The little-endian value of a byte sequence: the sum over k of `b_k * 256^k` (R12). -/
def natLE : List Byte → Nat
  | [] => 0
  | b :: bs => b.toNat + 256 * natLE bs

/-- `LE16(lo, hi) = lo + 256*hi` (R14, R70). -/
def le16 (lo hi : Byte) : Nat := lo.toNat + 256 * hi.toNat

/-- The four header bytes the checksum covers: class, id, and the length little-endian (R60, R63, R70). -/
def headerBody (cls id : Byte) (len : Nat) : List Byte := cls :: id :: bytesLE 2 len

/-- A frame with the two checksum bytes given (R60). -/
def frameWith (c : Config) (cls id : Byte) (payload : List Byte) (ckA ckB : Byte) : List Byte :=
  c.sync1.val :: c.sync2.val :: (headerBody cls id payload.length ++ payload ++ [ckA, ckB])

/-- The eight Config-Set bytes before the value: version, layer mask, two reserved zero bytes, the key little-endian
(R64, R69). -/
def valsetHead (c : Config) (key : Word) : List Byte :=
  [c.cfgVersion.val, c.layerMask, 0, 0] ++ bytesLE 4 key.toNat

/-- The Config-Set payload (R64). -/
def valsetPayload (c : Config) (key : Word) (value : List Byte) : List Byte := valsetHead c key ++ value

end Sys2Proof
end

