-- ==== Sys2Proof/Machine/Flags.lean ====
section
/-! DEFINITION. The block's only flag-like values: the two checksum accumulators (spec/10_state.md R27,
spec/41_checksum.md R120), created at 0 in every computation and dropped after it; and Frame of spec/00_scope.md R14. -/

namespace Sys2Proof

/-- One round of the checksum loop: ckA first, then ckB with the ckA just updated, both mod 256 (R120). -/
def fletcherStep (acc : Byte × Byte) (b : Byte) : Byte × Byte :=
  let a := acc.1 + b
  (a, acc.2 + a)

/-- `Fletcher8(s)`: both accumulators seeded at 0, the bytes in ascending offset order (R120, R126). -/
def fletcher8 (s : List Byte) : Byte × Byte := s.foldl fletcherStep (0, 0)

/-- `Fletcher8` of a frame's checksummed region: class, id, both length bytes and the payload (R63, R123). -/
def regionChecksum (cls id : Byte) (payload : List Byte) : Byte × Byte :=
  fletcher8 (headerBody cls id payload.length ++ payload)

/-- `Frame(cls, id, payload)` (R14): the frame that carries its own checksum. -/
def frame (c : Config) (cls id : Byte) (payload : List Byte) : List Byte :=
  frameWith c cls id payload (regionChecksum cls id payload).1 (regionChecksum cls id payload).2

end Sys2Proof
end

