-- ==== Sys2Proof/WellFormed.lean ====
section
/-! DEFINITION. Well-formed instructions. A request is always well formed: all eight OP codes are assigned and every
field value has a meaning (spec/30_encoding.md R81). A frame kind is well formed when its length field can say its
payload's length (R61, R66) and it has no more special kind. -/

namespace Sys2Proof

/-- The frame is a Config-Set: class, id, a payload of 8 to 12 bytes that begins with version, layer mask and the two
reserved zero bytes (R64, R66; widths 0 and 3 by R109; log 28). -/
def isValset (c : Config) (cls id : Byte) (p : List Byte) : Bool :=
  cls == c.clsCfg && id == c.idCfgValset && decide (c.cfgHdrLen.val ≤ p.length) &&
    decide (p.length ≤ c.cfgHdrLen.val + c.maxValueWidth.val) && p.take 4 == [c.cfgVersion.val, c.layerMask, 0, 0]

/-- The frame is an Ack (R65). -/
def isAckAck (c : Config) (cls id : Byte) (p : List Byte) : Bool :=
  cls == c.clsAck && id == c.idAckAck && p.length == c.ackPayloadLen.val

/-- The frame is a Nack (R65). -/
def isAckNak (c : Config) (cls id : Byte) (p : List Byte) : Bool :=
  cls == c.clsAck && id == c.idAckNak && p.length == c.ackPayloadLen.val

/-- The frame is the Navigation-PVT poll: no payload, and the checksum of that header (R66). -/
def isPvtPoll (c : Config) (cls id : Byte) (p : List Byte) (a b : Byte) : Bool :=
  cls == c.clsNav && id == c.idNavPvt && p.length == 0 && (a, b) == regionChecksum cls id []

/-- The frame has the Navigation-PVT shape (R66). -/
def isNavPvt (c : Config) (cls id : Byte) (p : List Byte) : Bool :=
  cls == c.clsNav && id == c.idNavPvt && p.length == c.navPvtLen.val

/-- The frame has the Navigation-Status shape (R66). -/
def isNavStatus (c : Config) (cls id : Byte) (p : List Byte) : Bool :=
  cls == c.clsNav && id == c.idNavStatus && p.length == c.navStatusLen.val

/-- The frame is one of the table's named kinds. -/
def isNamedFrame (c : Config) (cls id : Byte) (p : List Byte) (a b : Byte) : Bool :=
  isValset c cls id p || isAckAck c cls id p || isAckNak c cls id p || isPvtPoll c cls id p a b ||
    isNavPvt c cls id p || isNavStatus c cls id p

/-- The instruction is well formed. -/
def Instr.wf (c : Config) : Instr → Bool
  | .prepcmd _ _ _ => true
  | .prepcfg _ _ _ _ _ => true
  | .cksum _ _ _ => true
  | .valpkt _ _ _ _ => true
  | .valack _ _ _ _ => true
  | .prepcfgU1 _ _ _ => true
  | .prepcfgU2 _ _ _ => true
  | .prepcfgU4 _ _ _ => true
  | .ubxHeader cls id p a b => decide (p.length < 65536) && !isNamedFrame c cls id p a b
  | .ubxCfgValset _ value _ _ => decide (value.length ≤ c.maxValueWidth.val)
  | .ubxAckAck _ _ _ _ => true
  | .ubxAckNak _ _ _ _ => true
  | .ubxNavPvtPoll => true
  | .ubxNavPvt p _ _ => p.length == c.navPvtLen.val
  | .ubxNavStatus p _ _ => p.length == c.navStatusLen.val

end Sys2Proof
end

