-- ==== Sys2Proof/Decode.lean ====
section
/-! DEFINITION. The decoder and, after it, the encoder. A request word always decodes (spec/30_encoding.md R81); the
bytes of a bus transaction decode to a frame kind, or are no frame for a reason with a name (R60, R62). -/

namespace Sys2Proof

/-- A one-bit field as a Bool. -/
def bitAt (w : RequestWord) (i : Nat) : Bool := w.extractLsb' i 1 == 1#1

/-- The request fields at their places in the word, bit 0 of OP lowest, in the order of R21's table (log 1). -/
def reqOp (w : RequestWord) : BitVec 3 := w.extractLsb' 0 3
/-- BUFP -/
def reqBufp (w : RequestWord) : Bool := bitAt w 3
/-- SIZE -/
def reqSize (w : RequestWord) : Half := w.extractLsb' 4 16
/-- CLS -/
def reqCls (w : RequestWord) : Byte := w.extractLsb' 20 8
/-- ID -/
def reqId (w : RequestWord) : Byte := w.extractLsb' 28 8
/-- KEY -/
def reqKey (w : RequestWord) : Word := w.extractLsb' 36 32
/-- VALP -/
def reqValp (w : RequestWord) : Bool := bitAt w 68
/-- VAL -/
def reqVal (w : RequestWord) : Word := w.extractLsb' 69 32
/-- VW -/
def reqVw (w : RequestWord) : Byte := w.extractLsb' 101 8
/-- OFS -/
def reqOfs (w : RequestWord) : Half := w.extractLsb' 109 16
/-- COUNT -/
def reqCount (w : RequestWord) : Half := w.extractLsb' 125 16

/-- The operation a request selects (R80) with the operands it reads (R22); the other fields are don't-care (R81). -/
def decodeRequest (w : RequestWord) : Instr :=
  match (reqOp w).toNat with
  | 0 => .prepcmd (reqBufp w) (reqCls w) (reqId w)
  | 1 => .prepcfg (reqBufp w) (reqKey w) (reqValp w) (reqVal w) (reqVw w)
  | 2 => .cksum (reqBufp w) (reqOfs w) (reqCount w)
  | 3 => .valpkt (reqBufp w) (reqSize w) (reqCls w) (reqId w)
  | 4 => .valack (reqBufp w) (reqSize w) (reqCls w) (reqId w)
  | 5 => .prepcfgU1 (reqBufp w) (reqKey w) ((reqVal w).extractLsb' 0 8)
  | 6 => .prepcfgU2 (reqBufp w) (reqKey w) ((reqVal w).extractLsb' 0 16)
  | _ => .prepcfgU4 (reqBufp w) (reqKey w) (reqVal w)

/-- Which row of the table a frame is: the named kinds first, UBX.HEADER for every other frame (R60, R64 to R66). -/
def classifyFrame (c : Config) (cls id : Byte) (p : List Byte) (a b : Byte) : Instr :=
  if isValset c cls id p then .ubxCfgValset (BitVec.ofNat 32 (natLE ((p.drop 4).take 4))) (p.drop c.cfgHdrLen.val) a b
  else if isAckAck c cls id p then .ubxAckAck (p.getD 0 0) (p.getD 1 0) a b
  else if isAckNak c cls id p then .ubxAckNak (p.getD 0 0) (p.getD 1 0) a b
  else if isPvtPoll c cls id p a b then .ubxNavPvtPoll
  else if isNavPvt c cls id p then .ubxNavPvt p a b
  else if isNavStatus c cls id p then .ubxNavStatus p a b
  else .ubxHeader cls id p a b

/-- The bytes of a bus transaction as a frame: sync bytes, header, then exactly `length + 2` bytes (R60, R62). -/
def decodeFrame (c : Config) : List Byte → Except FrameError Instr
  | s1 :: s2 :: cls :: id :: lo :: hi :: rest =>
    if s1 ≠ c.sync1.val ∨ s2 ≠ c.sync2.val then .error .badSync
    else if rest.length < le16 lo hi + c.checksumLen.val then .error .truncated
    else if le16 lo hi + c.checksumLen.val < rest.length then .error .trailing
    else .ok (classifyFrame c cls id (rest.take (le16 lo hi)) (rest.getD (le16 lo hi) 0) (rest.getD (le16 lo hi + 1) 0))
  | _ => .error .noHeader

/-- The instruction a word on a port is. -/
def decode (c : Config) : PortWord → Except FrameError Instr
  | .request w => .ok (decodeRequest w)
  | .wire bytes => decodeFrame c bytes

/-- The request word with all its fields, COUNT highest (R21, log 1). -/
def packRequest (op : BitVec 3) (bufp : Bool) (size : Half) (cls id : Byte) (key : Word) (valp : Bool) (val : Word)
    (vw : Byte) (ofs count : Half) : RequestWord :=
  count ++ ofs ++ vw ++ val ++ BitVec.ofBool valp ++ key ++ id ++ cls ++ size ++ BitVec.ofBool bufp ++ op

/-- The bytes of a frame kind (R60, R64 to R66); of a request, which has none, the empty list. -/
def frameBytes (c : Config) : Instr → List Byte
  | .ubxHeader cls id p a b => frameWith c cls id p a b
  | .ubxCfgValset key value a b => frameWith c c.clsCfg c.idCfgValset (valsetPayload c key value) a b
  | .ubxAckAck cls id a b => frameWith c c.clsAck c.idAckAck [cls, id] a b
  | .ubxAckNak cls id a b => frameWith c c.clsAck c.idAckNak [cls, id] a b
  | .ubxNavPvtPoll => frame c c.clsNav c.idNavPvt []
  | .ubxNavPvt p a b => frameWith c c.clsNav c.idNavPvt p a b
  | .ubxNavStatus p a b => frameWith c c.clsNav c.idNavStatus p a b
  | .prepcmd _ _ _ => []
  | .prepcfg _ _ _ _ _ => []
  | .cksum _ _ _ => []
  | .valpkt _ _ _ _ => []
  | .valack _ _ _ _ => []
  | .prepcfgU1 _ _ _ => []
  | .prepcfgU2 _ _ _ => []
  | .prepcfgU4 _ _ _ => []

/-- The word of a well-formed instruction: a request record by R80's codes with the don't-care fields zero, or the
frame's bytes. -/
def encode (c : Config) : Instr → PortWord
  | .prepcmd bufp cls id => .request (packRequest 0 bufp 0 cls id 0 false 0 0 0 0)
  | .prepcfg bufp key valp val vw => .request (packRequest 1 bufp 0 0 0 key valp val vw 0 0)
  | .cksum bufp ofs count => .request (packRequest 2 bufp 0 0 0 0 false 0 0 ofs count)
  | .valpkt bufp size cls id => .request (packRequest 3 bufp size cls id 0 false 0 0 0 0)
  | .valack bufp size cls id => .request (packRequest 4 bufp size cls id 0 false 0 0 0 0)
  | .prepcfgU1 bufp key val => .request (packRequest 5 bufp 0 0 0 key false (val.setWidth 32) 0 0 0)
  | .prepcfgU2 bufp key val => .request (packRequest 6 bufp 0 0 0 key false (val.setWidth 32) 0 0 0)
  | .prepcfgU4 bufp key val => .request (packRequest 7 bufp 0 0 0 key false val 0 0 0)
  | .ubxHeader cls id p a b => .wire (frameBytes c (.ubxHeader cls id p a b))
  | .ubxCfgValset key value a b => .wire (frameBytes c (.ubxCfgValset key value a b))
  | .ubxAckAck cls id a b => .wire (frameBytes c (.ubxAckAck cls id a b))
  | .ubxAckNak cls id a b => .wire (frameBytes c (.ubxAckNak cls id a b))
  | .ubxNavPvtPoll => .wire (frameBytes c .ubxNavPvtPoll)
  | .ubxNavPvt p a b => .wire (frameBytes c (.ubxNavPvt p a b))
  | .ubxNavStatus p a b => .wire (frameBytes c (.ubxNavStatus p a b))

/-- A table row's bits as the word on its port. The request rows give the 3 bits of OP, one byte; the frame rows give
six bytes or more, the byte at offset 0 lowest, and the frame is as long as its length field says (R62, log 2). -/
def tableWord (nbits w : Nat) : PortWord :=
  if nbits ≤ 8 then .request (BitVec.ofNat 141 w)
  else .wire (bytesLE (Config.standard.overhead + w / 2 ^ 32 % 65536) w)

/-- The instruction the decoder reads from a table row's bits, at R9's default parameters (which the table's rows spell
out). -/
def decodeTableWord (nbits w : Nat) : Option Instr :=
  match decode Config.standard (tableWord nbits w) with
  | .ok i => some i
  | .error _ => none

end Sys2Proof
end

