-- ==== Sys2Proof/Machine/State.lean ====
section
/-! DEFINITION. The state: the block's parameters, the buffers and the one buffer port, the response, the host's Device
records, what the host has asked of the transport, and what the host and the bus do next (spec/10_state.md R20 to R31,
spec/49_host_driver.md R150). The block itself holds nothing between operations (R20); plain data throughout. -/

namespace Sys2Proof.Machine

/-- Buffer contents: (offset, byte) pairs, offsets strictly rising, no entry equal to `unlistedByte`. -/
abbrev Memory := List Host.Cell

/-- The status taxonomy, "flat, no inheritance" (spec/60_exceptions.md R170). -/
inductive Status where
  | ok
  | error
  | invalidParam
  | timeout
  | checksumError
  | transportError
  deriving DecidableEq, Repr

/-- The response record: each operation has its own result, and a field it does not produce holds no value
(R23, log 15). -/
inductive Response where
  /-- SIZE, of the five encoders -/
  | size (n : Half)
  /-- STATUS, of VALPKT and VALACK -/
  | status (st : Status)
  /-- CKA and CKB, of CKSUM -/
  | checksum (ckA ckB : Byte)
  deriving DecidableEq, Repr

/-- The host's two buffers (R26). -/
inductive Buffer where
  | tx
  | rx
  deriving DecidableEq, Repr

/-- The host's command types (spec/49_host_driver.md R155): one is supported; `none` is the zeroed value. -/
inductive CommandType where
  | none
  | readNavPvt
  | unsupported (code : Nat)
  deriving DecidableEq, Repr

/-- The two transport styles (R159). -/
inductive TransportStyle where
  | blocking
  | eventDriven
  deriving DecidableEq, Repr

/-- Transport configuration as the Device keeps it, the address in bus-addressing form (R150, R160, log 27). -/
structure Transport where
  busHandle : Nat
  address8 : Byte
  timeoutMs : Nat
  style : TransportStyle
  hasTransmit : Bool
  hasReceive : Bool
  hasDelay : Bool
  deriving DecidableEq, Repr

/-- What the caller supplies to `init`, with the 7-bit device address (R152, R160). -/
structure DriverConfig where
  busHandle : Nat
  address7 : BitVec 7
  timeoutMs : Nat
  style : TransportStyle
  hasTransmit : Bool
  hasReceive : Bool
  hasDelay : Bool
  deriving DecidableEq, Repr

/-- How a bus transaction ended, as the transport reports it (R161, R163). -/
inductive BusResult where
  | done
  | timedOut
  | failed
  deriving DecidableEq, Repr

/-- What the environment does in one config-set, settle, acknowledgment round of `init` (R152): the transmit's end,
whether the settle delay elapses within its bound (R164), the receive's end, and the bytes that arrived. -/
structure Handshake where
  sent : BusResult
  settled : Bool
  got : BusResult
  ack : List Byte
  deriving DecidableEq, Repr

/-- The host's Device record (R150), with the transfers in flight (spec/20_memory.md R53). -/
structure Device where
  initialized : Bool
  currentCommand : CommandType
  txLen : Half
  rxLen : Half
  transport : Transport
  /-- the delay-done flag, "a field owned by the Device instance itself" (R30, R164) -/
  delayDone : Bool
  /-- a transmit is reading the transmit buffer (R53, R206) -/
  txBusy : Bool
  /-- a receive of this many bytes is filling the receive buffer (R53, R156, R206) -/
  rxAwaited : Option Nat
  /-- the status the driver's last operation returned (R166, log 29) -/
  result : Option Status
  deriving DecidableEq, Repr

/-- One of the host's Devices with its own two buffers (R26, R150, R167). -/
structure Instance where
  tx : Memory
  rx : Memory
  dev : Device
  deriving DecidableEq, Repr

/-- What the host asks of the transport (R161): a transmit of bytes or a receive of a count, at an address and, in the
blocking style, within a timeout; or a delay in milliseconds (log 32). -/
inductive TransportCall where
  | transmit (address8 : Byte) (bytes : List Byte) (timeoutMs : Option Nat)
  | receive (address8 : Byte) (count : Nat) (timeoutMs : Option Nat)
  | delay (ms : Nat)
  deriving DecidableEq, Repr

/-- What the host or the bus does next: one entry is one step (log 4). -/
inductive HostAct where
  /-- a request record is presented, or a bus transaction's bytes arrive -/
  | word (p : PortWord)
  /-- the host binds a buffer to the block's port (R26) -/
  | bind (b : Buffer)
  /-- the host writes one byte of a buffer it owns -/
  | poke (b : Buffer) (offset : Nat) (v : Byte)
  /-- the transmit in flight ends (R159) -/
  | transmitEnded
  /-- the receive in flight ends without all its bytes, after these: it timed out or failed, "there is no mid-transaction
  cancellation" (R159, R163, log 19) -/
  | receiveLapsed (bytes : List Byte)
  /-- the settle delay's one-shot callback comes, after the spin has given up (R161, R164, log 31) -/
  | delayElapsed
  /-- the host constructs a further Device (R150, R167) -/
  | construct
  /-- the host turns to its `k`-th other Device (R167, log 16) -/
  | use (k : Nat)
  /-- the driver's `init` (R152), with what the environment does in its two rounds -/
  | driverInit (cfg : DriverConfig) (first second : Handshake)
  /-- the driver's `command` (R154), with its transmit's end -/
  | driverCommand (t : CommandType) (sent : BusResult)
  /-- the driver's `read` (R156), with its receive's end and the bytes that arrived -/
  | driverRead (got : BusResult) (bytes : List Byte)
  /-- the driver's `validate_response` (R157) -/
  | driverValidate (t : CommandType)
  deriving DecidableEq, Repr

/-- The faults. The block itself has none (R178). -/
inductive Fault where
  /-- Raised by a host write, or an arrival from the bus, at an offset the buffer does not have (R40). Safe: the
  machine stops where the spec says there is nothing to access (log 25). -/
  | offsetOutsideBuffer
  /-- Raised when the host turns to a Device it has not constructed (R167). Safe: there is nothing to run (log 16). -/
  | deviceAbsent
  deriving DecidableEq, Repr

/-- The refusals: the spec has no step here. -/
inductive Refusal where
  /-- Raised by an arm of exec whose instruction has no meaning yet. Safe. No arm is left that raises it. -/
  | notModelled (mnemonic : String)
  /-- Raised by CKSUM with BUFP = 0 (R121, 93 U5, log 11). Safe. -/
  | cksumNoBuffer
  /-- Raised by CKSUM when OFS + COUNT > BUFFER_CAPACITY (R121, 93 U5, log 11). Safe. -/
  | cksumPastEnd
  /-- Raised by any use of a buffer while a transfer is in flight on it (R53, R206, 93 U8, log 12). Safe. -/
  | bufferInFlight
  /-- Raised by the driver when a response lacks the field it reads (R23, 93 U15, log 15). Safe: no run reaches it. -/
  | responseFieldAbsent
  /-- Raised by a receive whose bytes are not as many as were declared (R156, log 23). Safe. -/
  | transferLengthMismatch
  deriving DecidableEq, Repr

/-- The machine's state: one block, and the host's Devices. `tx`, `rx` and `dev` are those of the Device in hand, and the
others stand in `others` (log 16). -/
structure State where
  /-- the parameters the block is built with; no step writes them (R28) -/
  cfg : Config
  /-- the host's transmit buffer (R26) -/
  tx : Memory
  /-- the host's receive buffer (R26) -/
  rx : Memory
  /-- the buffer bound to the block's one port (R26, 92 D23) -/
  bound : Buffer
  /-- the last response; none before the first operation completes (R31) -/
  resp : Option Response
  /-- the host's Device record (R31, R150) -/
  dev : Device
  /-- the host's other Devices (R167, R184) -/
  others : List Instance
  /-- what the host has asked of the transport, oldest first (R161, log 32) -/
  calls : List TransportCall
  /-- the outside world's input, oldest first (log 4) -/
  agenda : List HostAct
  deriving DecidableEq, Repr

/-- What a byte of a buffer reads as when nothing has written it: "buffers all 0x00" (R31). -/
def unlistedByte : Byte := 0

/-- The Device "constructed zeroed" (R31, R150). With no function pointer present no transport style is selected (R159),
and the spec gives no coding in which one is zero: that the zeroed record reads `blocking` is the model's choice (log 27). -/
def Device.zero : Device where
  initialized := false
  currentCommand := .none
  txLen := 0
  rxLen := 0
  transport := { busHandle := 0, address8 := 0, timeoutMs := 0, style := .blocking, hasTransmit := false, hasReceive := false, hasDelay := false }
  delayDone := false
  txBusy := false
  rxAwaited := none
  result := none

/-- A Device as it is constructed: zeroed, its buffers too (R31, R150). -/
def Instance.zero : Instance where
  tx := []
  rx := []
  dev := Device.zero

/-- The machine right after reset, built with parameters `c`: idle, no response, the host's record zeroed (R31, R200). -/
def State.resetWith (c : Config) : State where
  cfg := c
  tx := []
  rx := []
  bound := .tx
  resp := none
  dev := Device.zero
  others := []
  calls := []
  agenda := []

/-- The machine right after reset, at R9's default parameters and BUFFER_CAPACITY 128 (DESIGN CHOICE, log 6). -/
def State.reset : State := State.resetWith Config.standard

end Sys2Proof.Machine
end

