-- ==== Sys2Proof/Machine/Ops.lean ====
section
/-! DEFINITION. The named operations over the buffers, the buffer port, the response and the bus. There is no exception
to take and none to return from: "There is no trap. A failed check saves no state, changes no mode, vectors nowhere"
(spec/60_exceptions.md R178, R179). -/

namespace Sys2Proof.Machine

/-- `BUF[i]` (spec/00_scope.md R12). -/
def Memory.read : Memory → Nat → Byte
  | [], _ => unlistedByte
  | (a, v) :: t, i => if i = a then v else Memory.read t i

/-- `BUF[i] <- v` (R12), in the canonical form. -/
def Memory.write : Memory → Nat → Byte → Memory
  | [], i, v => if v = unlistedByte then [] else [(i, v)]
  | (a, u) :: t, i, v =>
    if i < a then (if v = unlistedByte then (a, u) :: t else (i, v) :: (a, u) :: t)
    else if i = a then (if v = unlistedByte then t else (a, v) :: t)
    else (a, u) :: Memory.write t i v

/-- Bytes at ascending offsets from `i`. -/
def Memory.writeBytes : Memory → Nat → List Byte → Memory
  | m, _, [] => m
  | m, i, b :: bs => Memory.writeBytes (m.write i b) (i + 1) bs

/-- `BUF[i..i+n)` (R12). -/
def Memory.readBytes (m : Memory) : Nat → Nat → List Byte
  | _, 0 => []
  | i, n + 1 => m.read i :: Memory.readBytes m (i + 1) n

/-- `MemRead(addr, n)`: little-endian (R12, R41). -/
def Memory.memRead (m : Memory) (addr n : Nat) : Nat := natLE (m.readBytes addr n)

/-- `MemWrite(addr, n, v)`: little-endian (R12, R41, R42). -/
def Memory.memWrite (m : Memory) (addr n v : Nat) : Memory := m.writeBytes addr (bytesLE n v)

/-- Every offset listed is at least `lo`, offsets rise strictly, and no byte listed is the unlisted one. -/
def Memory.wfFrom : Nat → Memory → Bool
  | _, [] => true
  | lo, (a, v) :: t => decide (lo ≤ a) && v != unlistedByte && Memory.wfFrom (a + 1) t

/-- The canonical form. -/
def Memory.wf (m : Memory) : Bool := Memory.wfFrom 0 m

/-- Nothing is listed at or above the capacity. -/
def Memory.below (m : Memory) (capacity : Nat) : Bool := m.all fun c => decide (c.1 < capacity)

/-- Run `f` on the next state of `o`; a fault or a refusal of `o` stands. -/
def andThen (o : Host.Outcome State Fault Refusal) (f : State → Host.Outcome State Fault Refusal) :
    Host.Outcome State Fault Refusal :=
  match o with
  | .next s => f s
  | .fault r => .fault r
  | .refused r => .refused r

/-- One of the two buffers. -/
def State.buffer (s : State) (b : Buffer) : Memory :=
  match b with
  | .tx => s.tx
  | .rx => s.rx

/-- Replace one of the two buffers. -/
def State.setBuffer (s : State) (b : Buffer) (m : Memory) : State :=
  match b with
  | .tx => { s with tx := m }
  | .rx => { s with rx := m }

/-- `BUF`, the buffer bound to the request (R12, R26). -/
def State.buf (s : State) : Memory := s.buffer s.bound

/-- Bind a buffer to the port (R26). -/
def State.bindTo (s : State) (b : Buffer) : State := { s with bound := b }

/-- A transfer is in flight on the buffer (R53, R206, log 12). -/
def State.busy (s : State) (b : Buffer) : Bool :=
  match b with
  | .tx => s.dev.txBusy
  | .rx => s.dev.rxAwaited.isSome

/-- Deliver the response (R23). -/
def State.respond (s : State) (r : Response) : State := { s with resp := some r }

/-- An encoder's success: the frame at offsets 0 up, and its size returned (R46, R48). -/
def State.emit (s : State) (bytes : List Byte) : State :=
  (s.setBuffer s.bound (s.buf.writeBytes 0 bytes)).respond (.size (BitVec.ofNat 16 bytes.length))

/-- An operation's end, unless its request binds a buffer that has a transfer in flight: "a run that breaks it has no
meaning in the model" (R53, log 12). -/
def onPort (bufp : Bool) (s after : State) : Host.Outcome State Fault Refusal :=
  if bufp && s.busy s.bound then .refused .bufferInFlight else .next after

/-- `resp.SIZE`, where the operation produced it (R23). -/
def Response.size? : Response → Option Half
  | .size n => some n
  | .status _ => none
  | .checksum _ _ => none

/-- `resp.STATUS`, where the operation produced it. -/
def Response.status? : Response → Option Status
  | .size _ => none
  | .status st => some st
  | .checksum _ _ => none

/-- `(resp.CKA, resp.CKB)`, where the operation produced them. -/
def Response.checksum? : Response → Option (Byte × Byte)
  | .size _ => none
  | .status _ => none
  | .checksum a b => some (a, b)

/-- The 3-bit codes of `resp.STATUS`; 6 and 7 are never produced (spec/60_exceptions.md R171). -/
def Status.code : Status → BitVec 3
  | .ok => 0
  | .error => 1
  | .invalidParam => 2
  | .timeout => 3
  | .checksumError => 4
  | .transportError => 5

/-- Bytes from the bus stand in the receive buffer at ascending offsets from 0, their count kept as its occupied length;
a receive in flight is over (R26, R40, R53). -/
def State.received (s : State) (bytes : List Byte) : State :=
  { s with
    rx := s.rx.writeBytes 0 bytes
    dev := { s.dev with rxLen := BitVec.ofNat 16 bytes.length, rxAwaited := none } }

/-- A receive (R40, R53): as many bytes as a receive in flight declared, if there is one (R156, log 23), and no more than
the buffer has room for (log 25). -/
def receiveBytes (bytes : List Byte) (s : State) : Host.Outcome State Fault Refusal :=
  if s.dev.rxAwaited.any (fun n => n != bytes.length) then .refused .transferLengthMismatch
  else if s.cfg.bufferCapacity < bytes.length then .fault .offsetOutsideBuffer
  else .next (s.received bytes)

end Sys2Proof.Machine
end

