-- ==== Sys2Proof/Machine/Checksum.lean ====
section
/-! DEFINITION. The checksum unit as an operation, spec/41_checksum.md: CKSUM. -/

namespace Sys2Proof.Machine

/-- CKSUM (R121): Fletcher8 over exactly COUNT bytes from OFS; refused with no buffer or past the end (log 11). -/
def execCksum (bufp : Bool) (ofs count : Half) (s : State) : Host.Outcome State Fault Refusal :=
  if bufp = false then .refused .cksumNoBuffer
  else if s.cfg.bufferCapacity < ofs.toNat + count.toNat then .refused .cksumPastEnd
  else
    let ck := fletcher8 (s.buf.readBytes ofs.toNat count.toNat)
    onPort bufp s (s.respond (.checksum ck.1 ck.2))

end Sys2Proof.Machine
end

