-- ==== Sys2Proof/Machine/Encoders.lean ====
section
/-! DEFINITION. The encoders, spec/40_encode.md: PREPCMD, PREPCFG and its typed wrappers. -/

namespace Sys2Proof.Machine

/-- The zero-payload command frame of PREPCMD (R100): `length = 0`, the checksum of the four header bytes. -/
def commandFrame (c : Config) (cls id : Byte) : List Byte := frame c cls id []

/-- The Config-Set frame of PREPCFG with `w` value bytes (R104). -/
def configSetFrame (c : Config) (key val : Word) (w : Nat) : List Byte :=
  frame c c.clsCfg c.idCfgValset (valsetPayload c key (bytesLE w val.toNat))

/-- R104's routine: "Returns 0 on a null buffer, null value pointer, or `value_width > 4`", nothing written. -/
def prepareConfigSet (bufp : Bool) (key : Word) (valp : Bool) (val : Word) (w : Nat) (s : State) : State :=
  if bufp = false ∨ valp = false ∨ s.cfg.maxValueWidth.val < w then s.respond (.size 0)
  else s.emit (configSetFrame s.cfg key val w)

/-- PREPCMD (R100). -/
def execPrepcmd (bufp : Bool) (cls id : Byte) (s : State) : Host.Outcome State Fault Refusal :=
  onPort bufp s (if bufp then s.emit (commandFrame s.cfg cls id) else s.respond (.size 0))

/-- PREPCFG (R104); widths 0 and 3 by the literal rule (R109, log 10). -/
def execPrepcfg (bufp : Bool) (key : Word) (valp : Bool) (val : Word) (vw : Byte) (s : State) :
    Host.Outcome State Fault Refusal :=
  onPort bufp s (prepareConfigSet bufp key valp val vw.toNat s)

/-- PREPCFG.U1 (R105): `VALP = 1`, `VW = 1`, `VAL = zext_32(VAL[7:0])`. -/
def execPrepcfgU1 (bufp : Bool) (key : Word) (val : Byte) (s : State) : Host.Outcome State Fault Refusal :=
  onPort bufp s (prepareConfigSet bufp key true (val.setWidth 32) 1 s)

/-- PREPCFG.U2 (R106): `VALP = 1`, `VW = 2`, `VAL = zext_32(VAL[15:0])`. -/
def execPrepcfgU2 (bufp : Bool) (key : Word) (val : Half) (s : State) : Host.Outcome State Fault Refusal :=
  onPort bufp s (prepareConfigSet bufp key true (val.setWidth 32) 2 s)

/-- PREPCFG.U4 (R107): `VALP = 1`, `VW = 4`, `VAL = VAL`. -/
def execPrepcfgU4 (bufp : Bool) (key : Word) (val : Word) (s : State) : Host.Outcome State Fault Refusal :=
  onPort bufp s (prepareConfigSet bufp key true val 4 s)

end Sys2Proof.Machine
end

