-- ==== Sys2Proof/Machine/Frames.lean ====
section
/-! DEFINITION. The frame kinds of the table (spec/30_encoding.md R60, R64 to R66). Each is "a frame byte pattern, not an
operation"; its meaning here is the one event in which the pattern meets the machine: the frame arrives from the bus and
its bytes stand in the receive buffer at ascending offsets from 0 (spec/20_memory.md R40, R53; DESIGN CHOICE, log 3). -/

namespace Sys2Proof.Machine

/-- UBX.HEADER (R60): a frame of no more special kind arrives. -/
def execUbxHeader (cls id : Byte) (payload : List Byte) (ckA ckB : Byte) (s : State) : Host.Outcome State Fault Refusal :=
  receiveBytes (frameBytes s.cfg (.ubxHeader cls id payload ckA ckB)) s

/-- UBX.CFG-VALSET (R64): a Config-Set frame arrives. -/
def execUbxCfgValset (key : Word) (value : List Byte) (ckA ckB : Byte) (s : State) : Host.Outcome State Fault Refusal :=
  receiveBytes (frameBytes s.cfg (.ubxCfgValset key value ckA ckB)) s

/-- UBX.ACK-ACK (R65): an acknowledgment arrives. -/
def execUbxAckAck (cls id ckA ckB : Byte) (s : State) : Host.Outcome State Fault Refusal :=
  receiveBytes (frameBytes s.cfg (.ubxAckAck cls id ckA ckB)) s

/-- UBX.ACK-NAK (R65): a negative acknowledgment arrives. -/
def execUbxAckNak (cls id ckA ckB : Byte) (s : State) : Host.Outcome State Fault Refusal :=
  receiveBytes (frameBytes s.cfg (.ubxAckNak cls id ckA ckB)) s

/-- UBX.NAV-PVT.POLL (R66): a Navigation-PVT poll arrives. -/
def execUbxNavPvtPoll (s : State) : Host.Outcome State Fault Refusal :=
  receiveBytes (frameBytes s.cfg .ubxNavPvtPoll) s

/-- UBX.NAV-PVT (R66): a Navigation-PVT response arrives. -/
def execUbxNavPvt (payload : List Byte) (ckA ckB : Byte) (s : State) : Host.Outcome State Fault Refusal :=
  receiveBytes (frameBytes s.cfg (.ubxNavPvt payload ckA ckB)) s

/-- UBX.NAV-STATUS (R66): a Navigation-Status frame arrives. -/
def execUbxNavStatus (payload : List Byte) (ckA ckB : Byte) (s : State) : Host.Outcome State Fault Refusal :=
  receiveBytes (frameBytes s.cfg (.ubxNavStatus payload ckA ckB)) s

end Sys2Proof.Machine
end

