-- ==== Sys2Proof/Machine/Validators.lean ====
section
/-! DEFINITION. The validators, spec/42_validate.md: VALPKT and VALACK. -/

namespace Sys2Proof.Machine

/-- The declared length, `BUF[4] + 256 * BUF[5]` (R70). -/
def declaredLength (buf : Memory) : Nat := le16 (buf.read 4) (buf.read 5)

/-- `validate_packet`, R130 steps 1 to 7 in their order (R131); steps 1 and 2 by log 8. All sums are over the naturals (R124). -/
def validatePacket (c : Config) (bufp : Bool) (buf : Memory) (size : Half) (cls id : Byte) : Status :=
  if bufp = false then .invalidParam
  else if size.toNat < c.overhead then .error
  else if buf.read 0 ≠ c.sync1.val ∨ buf.read 1 ≠ c.sync2.val then .error
  else if buf.read 2 ≠ cls ∨ buf.read 3 ≠ id then .error
  else if c.maxPayload < declaredLength buf then .error
  else if size.toNat ≠ c.headerLen.val + declaredLength buf + c.checksumLen.val then .error
  else if (buf.read (6 + declaredLength buf), buf.read (7 + declaredLength buf)) ≠
      fletcher8 (buf.readBytes 2 (declaredLength buf + 4)) then .checksumError
  else .ok

/-- `validate_ack` (R135): the frame as an Ack; then the Nack inspection of offset 3, guarded (92 D8), or the echo
comparison, with no check of the declared length (R137, log 9). -/
def validateAck (c : Config) (bufp : Bool) (buf : Memory) (size : Half) (cls id : Byte) : Status :=
  let inner := validatePacket c bufp buf size c.clsAck c.idAckAck
  if inner ≠ .ok then
    if bufp = true ∧ c.overhead ≤ size.toNat ∧ buf.read 3 = c.idAckNak then .error else inner
  else if buf.read 6 ≠ cls ∨ buf.read 7 ≠ id then .error
  else .ok

/-- VALPKT (R130). -/
def execValpkt (bufp : Bool) (size : Half) (cls id : Byte) (s : State) : Host.Outcome State Fault Refusal :=
  onPort bufp s (s.respond (.status (validatePacket s.cfg bufp s.buf size cls id)))

/-- VALACK (R135). -/
def execValack (bufp : Bool) (size : Half) (cls id : Byte) (s : State) : Host.Outcome State Fault Refusal :=
  onPort bufp s (s.respond (.status (validateAck s.cfg bufp s.buf size cls id)))

end Sys2Proof.Machine
end

