-- ==== Sys2Proof/Machine/Dispatch.lean ====
section
/-! DEFINITION. One arm per constructor of Instr, in the table's order. -/

namespace Sys2Proof.Machine

def exec (i : Instr) (s : State) : Host.Outcome State Fault Refusal :=
  match i with
  | .prepcmd bufp cls id => Sys2Proof.Machine.execPrepcmd bufp cls id s
  | .prepcfg bufp key valp val vw => Sys2Proof.Machine.execPrepcfg bufp key valp val vw s
  | .cksum bufp ofs count => Sys2Proof.Machine.execCksum bufp ofs count s
  | .valpkt bufp size cls id => Sys2Proof.Machine.execValpkt bufp size cls id s
  | .valack bufp size cls id => Sys2Proof.Machine.execValack bufp size cls id s
  | .prepcfgU1 bufp key val => Sys2Proof.Machine.execPrepcfgU1 bufp key val s
  | .prepcfgU2 bufp key val => Sys2Proof.Machine.execPrepcfgU2 bufp key val s
  | .prepcfgU4 bufp key val => Sys2Proof.Machine.execPrepcfgU4 bufp key val s
  | .ubxHeader cls id payload ckA ckB => Sys2Proof.Machine.execUbxHeader cls id payload ckA ckB s
  | .ubxCfgValset key value ckA ckB => Sys2Proof.Machine.execUbxCfgValset key value ckA ckB s
  | .ubxAckAck cls id ckA ckB => Sys2Proof.Machine.execUbxAckAck cls id ckA ckB s
  | .ubxAckNak cls id ckA ckB => Sys2Proof.Machine.execUbxAckNak cls id ckA ckB s
  | .ubxNavPvtPoll => Sys2Proof.Machine.execUbxNavPvtPoll s
  | .ubxNavPvt payload ckA ckB => Sys2Proof.Machine.execUbxNavPvt payload ckA ckB s
  | .ubxNavStatus payload ckA ckB => Sys2Proof.Machine.execUbxNavStatus payload ckA ckB s

end Sys2Proof.Machine
end

