-- ==== Sys2Proof/Machine/Driver.lean ====
section
/-! DEFINITION. The host's GPS Device Driver, spec/49_host_driver.md: outside the block (spec/00_scope.md R5), modelled as
the host's program over block requests (log 17). What the transport does is input. -/

namespace Sys2Proof.Machine

/-- The transport's report as a status (spec/60_exceptions.md R170, R163). -/
def BusResult.status : BusResult → Status
  | .done => .ok
  | .timedOut => .timeout
  | .failed => .transportError

/-- The status goes to the driver's caller (R166). -/
def State.returnStatus (s : State) (st : Status) : State := { s with dev := { s.dev with result := some st } }

/-- The transmit length (R26). -/
def State.withTxLen (s : State) (n : Half) : State := { s with dev := { s.dev with txLen := n } }

/-- The delay-done flag (R164). -/
def State.withDelayDone (s : State) (b : Bool) : State := { s with dev := { s.dev with delayDone := b } }

/-- The outstanding command (R154). -/
def State.withCommand (s : State) (t : CommandType) : State := { s with dev := { s.dev with currentCommand := t } }

/-- A transmit in flight, or not (R159). -/
def State.withTxBusy (s : State) (b : Bool) : State := { s with dev := { s.dev with txBusy := b } }

/-- A receive of `n` bytes in flight, or none (R156, R159). -/
def State.withAwaited (s : State) (n : Option Nat) : State := { s with dev := { s.dev with rxAwaited := n } }

/-- The gate of `command` and `read` (R150). -/
def State.withInitialized (s : State) (b : Bool) : State := { s with dev := { s.dev with initialized := b } }

/-- The address handed to the transport: the 7-bit address shifted left by one bit (R160). -/
def busAddress (address7 : BitVec 7) : Byte := address7.setWidth 8 <<< 1

/-- The configuration as `init` copies it (R152). -/
def DriverConfig.toTransport (c : DriverConfig) : Transport where
  busHandle := c.busHandle
  address8 := busAddress c.address7
  timeoutMs := c.timeoutMs
  style := c.style
  hasTransmit := c.hasTransmit
  hasReceive := c.hasReceive
  hasDelay := c.hasDelay

/-- "all required transport function pointers are present" (R152, log 27). -/
def Transport.complete (t : Transport) : Bool := t.hasTransmit && t.hasReceive && t.hasDelay

/-- The frame bytes of the response a command has, header and checksum included: 100 (R155, R156). -/
def responseSize (c : Config) : Nat := c.headerLen.val + c.navPvtLen.val + c.checksumLen.val

/-- The bytes of an acknowledgment, 6 + 2 + 2 (R152, 92 D20, log 22). -/
def ackSize (c : Config) : Nat := c.headerLen.val + c.ackPayloadLen.val + c.checksumLen.val

/-- The SIZE `validate_response` passes: what `read` declares, or what was received, by whatever receive came last (log 33). -/
def State.validateSize (s : State) : Half :=
  match s.cfg.validateSize with
  | .declared => BitVec.ofNat 16 (responseSize s.cfg)
  | .received => s.dev.rxLen

/-- The request that writes value `v` to a catalogue key from the bound buffer: the typed wrapper of the key's width
(R67, R83). -/
def itemRequest (i : ConfigItem) (v : Word) : Instr :=
  match i.width with
  | .one => .prepcfgU1 true i.key (v.extractLsb' 0 8)
  | .two => .prepcfgU2 true i.key (v.extractLsb' 0 16)
  | .four => .prepcfgU4 true i.key v

/-- The timeout a transport call carries: blocking calls have one, the others "the same signature minus timeout" (R161,
R163). -/
def Transport.callTimeout (t : Transport) : Option Nat :=
  match t.style with
  | .blocking => some t.timeoutMs
  | .eventDriven => none

/-- The host asks something of the transport (log 32). -/
def State.asks (s : State) (call : TransportCall) : State := { s with calls := s.calls ++ [call] }

/-- The host transmits `TX[0 .. transmit length)` (R153, R154). -/
def State.asksTransmit (s : State) : State :=
  s.asks (.transmit s.dev.transport.address8 (s.tx.readBytes 0 s.dev.txLen.toNat) s.dev.transport.callTimeout)

/-- The host issues a receive of exactly `n` bytes (R156). -/
def State.asksReceive (s : State) (n : Nat) : State :=
  s.asks (.receive s.dev.transport.address8 n s.dev.transport.callTimeout)

/-- The host asks for the settle delay (R152, R164). -/
def State.asksDelay (s : State) : State := s.asks (.delay s.cfg.settleDelayMs)

/-- A receive of `n` bytes fails: the bytes that arrived before are received, and its status is returned (log 19). -/
def receiveFailed (n : Nat) (r : BusResult) (bytes : List Byte) (s : State) : State :=
  (s.received (bytes.take n)).returnStatus r.status

/-- A blocking receive of exactly `n` bytes (R156), then `k`. -/
def receiveExactly (n : Nat) (r : BusResult) (bytes : List Byte) (s : State)
    (k : State → Host.Outcome State Fault Refusal) : Host.Outcome State Fault Refusal :=
  match r with
  | .done => if bytes.length ≠ n then .refused .transferLengthMismatch else andThen (receiveBytes bytes s) k
  | .timedOut => .next (receiveFailed n .timedOut bytes s)
  | .failed => .next (receiveFailed n .failed bytes s)

/-- The settle delay (R152, R164): in the event-driven style a timer clears the flag, a callback sets it, and the spin on
it is bounded; in the blocking style the delay returns when it is over. The flag's value after it (logs 26, 31). -/
def settles (t : TransportStyle) (elapsed : Bool) : Bool :=
  match t with
  | .blocking => true
  | .eventDriven => elapsed

/-- The acknowledgment's verdict: any status but Ok aborts `init` with that status (R153). -/
def onAck (s : State) (k : State → Host.Outcome State Fault Refusal) : Host.Outcome State Fault Refusal :=
  match s.resp with
  | some (.status .ok) => k s
  | some (.status st) => .next (s.returnStatus st)
  | some (.size _) => .refused .responseFieldAbsent
  | some (.checksum _ _) => .refused .responseFieldAbsent
  | none => .refused .responseFieldAbsent

/-- The size an encoder returned becomes the transmit length (R26). -/
def onSize (s : State) (k : State → Host.Outcome State Fault Refusal) : Host.Outcome State Fault Refusal :=
  match s.resp with
  | some (.size n) => k (s.withTxLen n)
  | some (.status _) => .refused .responseFieldAbsent
  | some (.checksum _ _) => .refused .responseFieldAbsent
  | none => .refused .responseFieldAbsent

/-- One round of `init` (R152, R153): encode and send the config-set of value `val` to a key of the catalogue, wait, receive
10 bytes, VALACK them. Any failure returns its status to the caller. A delay that does not elapse leaves the flag clear;
what a late callback does to it is `HostAct.delayElapsed` (log 31). -/
def handshakeRound (item : ConfigItem) (val : Word) (h : Handshake) (s : State)
    (k : State → Host.Outcome State Fault Refusal) : Host.Outcome State Fault Refusal :=
  andThen (exec (itemRequest item val) (s.bindTo .tx)) fun s1 =>
  onSize s1 fun s2 =>
  if h.sent ≠ .done then .next (s2.asksTransmit.returnStatus h.sent.status)
  else if settles s2.dev.transport.style h.settled = false then
    .next ((s2.asksTransmit.asksDelay.withDelayDone false).returnStatus .timeout)
  else
    receiveExactly (ackSize s2.cfg) h.got h.ack
      ((s2.asksTransmit.asksDelay.withDelayDone true).asksReceive (ackSize s2.cfg)) fun s3 =>
    andThen (execValack true (BitVec.ofNat 16 (ackSize s3.cfg)) s3.cfg.clsCfg s3.cfg.idCfgValset (s3.bindTo .rx)) fun s4 =>
    onAck s4 k

/-- `init` copies the configuration and "zeroes buffers and flags" (R152). -/
def State.zeroed (s : State) (t : Transport) : State :=
  { s with tx := [], rx := [], dev := { Device.zero with transport := t } }

/-- `init` (R152, R153, R158): the two rounds in strict order, "enable UBX output" with value 1 and "disable NMEA output" with
value 0 (R67, R83), each by the wrapper of its key's width, which is PREPCFG.U1 at R67's widths; only full success sets
`initialized` (logs 18, 21, 34). -/
def driverInit (c : DriverConfig) (first second : Handshake) (s : State) : Host.Outcome State Fault Refusal :=
  if c.toTransport.complete = false then
    .next ((s.withInitialized false).returnStatus .invalidParam)
  else if s.busy .tx || s.busy .rx then .refused .bufferInFlight
  else
    handshakeRound s.cfg.itemUbx 1 first (s.zeroed c.toTransport) fun s1 =>
    handshakeRound s1.cfg.itemNmea 0 second s1 fun s2 =>
    .next ((s2.withInitialized true).returnStatus .ok)

/-- `command` (R154): the zero-payload frame of the one supported command, `current_command` recorded, a transmit issued
(log 30); in the event-driven style the transmit buffer is then in flight (R159, R206). -/
def driverCommand (t : CommandType) (sent : BusResult) (s : State) : Host.Outcome State Fault Refusal :=
  if s.dev.initialized = false ∨ t ≠ .readNavPvt then .next (s.returnStatus .invalidParam)
  else
    andThen (execPrepcmd true s.cfg.clsNav s.cfg.idNavPvt (s.bindTo .tx)) fun s1 =>
    onSize s1 fun s2 =>
    match sent with
    | .done =>
      .next (((s2.withCommand t).asksTransmit.withTxBusy
        (s2.dev.transport.style == TransportStyle.eventDriven)).returnStatus .ok)
    | .timedOut => .next ((s2.withCommand t).asksTransmit.returnStatus .timeout)
    | .failed => .next ((s2.withCommand t).asksTransmit.returnStatus .transportError)

/-- `read` (R156): a receive of exactly 100 bytes; in the event-driven style it returns with the receive in flight. -/
def driverRead (got : BusResult) (bytes : List Byte) (s : State) : Host.Outcome State Fault Refusal :=
  if s.dev.initialized = false ∨ s.dev.currentCommand ≠ .readNavPvt then .next (s.returnStatus .invalidParam)
  else if s.busy .rx then .refused .bufferInFlight
  else if s.cfg.bufferCapacity < responseSize s.cfg then .fault .offsetOutsideBuffer
  else if s.dev.transport.style = .eventDriven ∧ got = .done then
    .next (((s.asksReceive (responseSize s.cfg)).withAwaited (some (responseSize s.cfg))).returnStatus .ok)
  else
    receiveExactly (responseSize s.cfg) got bytes (s.asksReceive (responseSize s.cfg)) fun s1 => .next (s1.returnStatus .ok)

/-- `validate_response` (R157, R83): VALPKT of the receive buffer at the size of log 33, its status returned unchanged; a
command type with no expected class and id is `InvalidParam` (R170, log 20). -/
def driverValidate (t : CommandType) (s : State) : Host.Outcome State Fault Refusal :=
  if t ≠ .readNavPvt then .next (s.returnStatus .invalidParam)
  else
    andThen (execValpkt true s.validateSize s.cfg.clsNav s.cfg.idNavPvt (s.bindTo .rx)) fun s1 =>
    match s1.resp with
    | some (.status st) => .next (s1.returnStatus st)
    | some (.size _) => .refused .responseFieldAbsent
    | some (.checksum _ _) => .refused .responseFieldAbsent
    | none => .refused .responseFieldAbsent

end Sys2Proof.Machine
end

