-- ==== Sys2Proof/Machine/HostSide.lean ====
section
/-! DEFINITION. What one entry of the agenda does (log 4): a word reaches a port, the host handles its buffers, the bus
ends a transfer, or the driver is called. -/

namespace Sys2Proof.Machine

/-- A word on a port: the instruction it decodes to runs. Bytes that are no frame are stored as they come: the transport
does not look at them (spec/20_memory.md R40, spec/49_host_driver.md R156; log 24). -/
def runWord (p : PortWord) (s : State) : Host.Outcome State Fault Refusal :=
  match p with
  | .request w => exec (decodeRequest w) s
  | .wire bytes =>
    match decodeFrame s.cfg bytes with
    | .ok i => exec i s
    | .error _ => receiveBytes bytes s

/-- The host writes one byte of a buffer it owns; not while a transfer is in flight on it (R165, R206). -/
def hostPoke (b : Buffer) (offset : Nat) (v : Byte) (s : State) : Host.Outcome State Fault Refusal :=
  if s.busy b then .refused .bufferInFlight
  else if s.cfg.bufferCapacity ≤ offset then .fault .offsetOutsideBuffer
  else .next (s.setBuffer b ((s.buffer b).write offset v))

/-- The transmit in flight is out (R159). -/
def transmitEnded (s : State) : State := s.withTxBusy false

/-- The receive in flight ends without all its bytes (R159, R163). What it leaves behind the spec does not say: here, as in
a blocking receive that fails, the bytes that came, as many as were declared at the most, with their count as the receive
length (R26, log 19). -/
def receiveLapsed (bytes : List Byte) (s : State) : State :=
  match s.dev.rxAwaited with
  | some n => s.received (bytes.take n)
  | none => s

/-- The Device in hand. -/
def State.inHand (s : State) : Instance where
  tx := s.tx
  rx := s.rx
  dev := s.dev

/-- A further Device is constructed, zeroed (R150, R167). -/
def State.construct (s : State) : State := { s with others := s.others ++ [Instance.zero] }

/-- The host turns to its `k`-th other Device: that one comes into the hand, and the one in the hand takes its place
(R167, log 16). -/
def useDevice (k : Nat) (s : State) : Host.Outcome State Fault Refusal :=
  match s.others[k]? with
  | some i => .next { s with tx := i.tx, rx := i.rx, dev := i.dev, others := s.others.set k s.inHand }
  | none => .fault .deviceAbsent

/-- One entry of the agenda. -/
def perform (a : HostAct) (s : State) : Host.Outcome State Fault Refusal :=
  match a with
  | .word p => runWord p s
  | .bind b => .next (s.bindTo b)
  | .poke b offset v => hostPoke b offset v s
  | .transmitEnded => .next (transmitEnded s)
  | .receiveLapsed bytes => .next (receiveLapsed bytes s)
  | .delayElapsed => .next (s.withDelayDone true)
  | .construct => .next s.construct
  | .use k => useDevice k s
  | .driverInit c first second => driverInit c first second s
  | .driverCommand t sent => driverCommand t sent s
  | .driverRead got bytes => driverRead got bytes s
  | .driverValidate t => driverValidate t s

end Sys2Proof.Machine
end

