-- ==== Sys2Proof/Machine/Step.lean ====
section
/-! DEFINITION. One step: the agenda's first entry is taken off and performed, whole (spec/20_memory.md R50, R51). With
nothing asked of it the machine is idle (spec/60_exceptions.md R186, log 5). -/

namespace Sys2Proof.Machine

/-- One step. -/
def step (s : State) : Host.Outcome State Fault Refusal :=
  match s.agenda with
  | [] => .next s
  | a :: rest => perform a { s with agenda := rest }

/-- A table row's bits as the next word the machine sees: the block has no memory to fetch from (spec/10_state.md R25),
so the word is put first on the agenda (log 4). -/
def State.withFetchWord (s : State) (nbits w : Nat) : State := { s with agenda := .word (tableWord nbits w) :: s.agenda }

end Sys2Proof.Machine
end

