-- ==== Sys2Proof/Safety.lean ====
section
/-! DEFINITION. What a safe state is, and where an instruction has a meaning: what
spec/70_reset_and_hazards.md R202 and R206 ask of the host, as far as the spec leaves a request without a meaning. -/

namespace Sys2Proof.Machine

/-- What every step keeps of one Device and its buffers. -/
structure Instance.Inv (c : Config) (i : Instance) : Prop where
  /-- the transmit buffer is in the canonical form and holds BUFFER_CAPACITY bytes (R26, R40) -/
  tx_wf : i.tx.wf = true
  tx_below : i.tx.below c.bufferCapacity = true
  /-- the receive buffer likewise -/
  rx_wf : i.rx.wf = true
  rx_below : i.rx.below c.bufferCapacity = true
  /-- occupied lengths fit the buffers ("never grown", R26) -/
  txLen_le : i.dev.txLen.toNat ≤ c.bufferCapacity
  rxLen_le : i.dev.rxLen.toNat ≤ c.bufferCapacity
  /-- a receive in flight fits the buffer -/
  awaited_le : ∀ n, i.dev.rxAwaited = some n → n ≤ c.bufferCapacity
  /-- `init` succeeds only with every function pointer present (R152) -/
  transport_complete : i.dev.initialized = true → i.dev.transport.complete = true
  /-- only a supported command is ever recorded (R154, R155) -/
  command_supported : i.dev.currentCommand = .none ∨ i.dev.currentCommand = .readNavPvt

/-- What every step keeps, whatever the host and the bus do: the Device in hand and every other keep `Instance.Inv`. -/
structure State.Inv (s : State) : Prop where
  inHand : s.inHand.Inv s.cfg
  others : ∀ i ∈ s.others, i.Inv s.cfg

/-- The transport may store `n` bytes in the receive buffer: as many as a receive in flight declared, and no more than
the buffer holds. -/
def State.accepts (s : State) (n : Nat) : Bool :=
  s.dev.rxAwaited.all (fun k => k == n) && decide (n ≤ s.cfg.bufferCapacity)

/-- The request's buffer, if it binds one, has no transfer in flight (R53, R206). -/
def State.portFree (s : State) (bufp : Bool) : Bool := !(bufp && s.busy s.bound)

/-- The instruction has a meaning in this state: its buffer is free (R53, R206, log 12), CKSUM is within R121's contract
(log 11), and the transport may store a frame that arrives (logs 3, 23, 25). A SIZE above BUFFER_CAPACITY and the widths 0
and 3 break the host's contract and have a meaning all the same (R133, R109, log 10). -/
def hasMeaning (i : Instr) (s : State) : Bool :=
  match i with
  | .prepcmd bufp _ _ => s.portFree bufp
  | .prepcfg bufp _ _ _ _ => s.portFree bufp
  | .cksum bufp ofs count => bufp && decide (ofs.toNat + count.toNat ≤ s.cfg.bufferCapacity) && s.portFree bufp
  | .valpkt bufp _ _ _ => s.portFree bufp
  | .valack bufp _ _ _ => s.portFree bufp
  | .prepcfgU1 bufp _ _ => s.portFree bufp
  | .prepcfgU2 bufp _ _ => s.portFree bufp
  | .prepcfgU4 bufp _ _ => s.portFree bufp
  | .ubxHeader cls id p a b => s.accepts (frameBytes s.cfg (.ubxHeader cls id p a b)).length
  | .ubxCfgValset key value a b => s.accepts (frameBytes s.cfg (.ubxCfgValset key value a b)).length
  | .ubxAckAck cls id a b => s.accepts (frameBytes s.cfg (.ubxAckAck cls id a b)).length
  | .ubxAckNak cls id a b => s.accepts (frameBytes s.cfg (.ubxAckNak cls id a b)).length
  | .ubxNavPvtPoll => s.accepts (frameBytes s.cfg .ubxNavPvtPoll).length
  | .ubxNavPvt p a b => s.accepts (frameBytes s.cfg (.ubxNavPvt p a b)).length
  | .ubxNavStatus p a b => s.accepts (frameBytes s.cfg (.ubxNavStatus p a b)).length

/-- The instruction is one of the eight operations of R80 (the others are frame kinds). -/
def isRequest : Instr → Bool
  | .prepcmd _ _ _ => true
  | .prepcfg _ _ _ _ _ => true
  | .cksum _ _ _ => true
  | .valpkt _ _ _ _ => true
  | .valack _ _ _ _ => true
  | .prepcfgU1 _ _ _ => true
  | .prepcfgU2 _ _ _ => true
  | .prepcfgU4 _ _ _ => true
  | .ubxHeader _ _ _ _ _ => false
  | .ubxCfgValset _ _ _ _ => false
  | .ubxAckAck _ _ _ _ => false
  | .ubxAckNak _ _ _ _ => false
  | .ubxNavPvtPoll => false
  | .ubxNavPvt _ _ _ => false
  | .ubxNavStatus _ _ _ => false

end Sys2Proof.Machine
end

