-- ==== Sys2Proof/Certificates/Slice0/Obligations.lean ====
section
/-! DEFINITION. The statements. Each docstring names the rule of spec/ it formalises, or the log entry it rests on. -/

namespace Sys2Proof.Claims

open Sys2Proof.Machine

/-- `BUF[a .. a+n)` (spec/00_scope.md R12), read byte by byte. -/
def bytesAt (m : Memory) (a n : Nat) : List Byte := (List.range n).map fun k => m.read (a + k)

/-- The machine's next step when `a` is the next thing the host or the bus does. -/
def issue (s : State) (a : HostAct) : Host.Outcome State Fault Refusal := step { s with agenda := a :: s.agenda }

/-- From `s` to `t` an encoder has answered size `n` and written, at most, offsets 0 to n-1 of the bound buffer: every
other byte of it, the other buffer, the parameters, the binding, the host's records, what was asked of the transport and
the agenda are as they were. -/
def WroteExactly (s t : State) (n : Nat) : Prop :=
  t.resp = some (.size (BitVec.ofNat 16 n)) ∧
  (∀ a, n ≤ a → t.buf.read a = s.buf.read a) ∧
  (∀ b, b ≠ s.bound → t.buffer b = s.buffer b) ∧
  t.cfg = s.cfg ∧ t.bound = s.bound ∧ t.dev = s.dev ∧ t.others = s.others ∧ t.calls = s.calls ∧ t.agenda = s.agenda

/-- From `s` to `t` a receive has put `bytes` into the receive buffer and its length into the host's record, and ended
the receive in flight: every other byte, the transmit buffer, the response, the parameters, the binding, the rest of the
record, the other records, what was asked of the transport and the agenda are as they were. -/
def Received (s t : State) (bytes : List Byte) : Prop :=
  bytesAt t.rx 0 bytes.length = bytes ∧
  (∀ a, bytes.length ≤ a → t.rx.read a = s.rx.read a) ∧
  t.tx = s.tx ∧ t.resp = s.resp ∧ t.cfg = s.cfg ∧ t.bound = s.bound ∧ t.others = s.others ∧ t.calls = s.calls ∧
  t.agenda = s.agenda ∧ t.dev = { s.dev with rxLen := BitVec.ofNat 16 bytes.length, rxAwaited := none }

/-- From `s` to `t` the response is the status `st` and nothing else has moved. -/
def AnsweredStatus (s t : State) (st : Status) : Prop := t = { s with resp := some (.status st) }

/-- From `s` to `t` the status `st` is returned to the driver's caller and nothing else has moved. -/
def ReturnedOnly (s t : State) (st : Status) : Prop := t = { s with dev := { s.dev with result := some st } }

/-- From `s` to `t` PREPCFG has written the Config-Set frame of a present value with `vw` value bytes (spec/40_encode.md
R104, spec/30_encoding.md R68, R69), answered `16 + vw`, and done nothing else. -/
def WroteConfigSet (s t : State) (key val : Word) (vw : Nat) : Prop :=
  bytesAt t.buf 0 10 = [0xB5, 0x62, s.cfg.clsCfg, s.cfg.idCfgValset, BitVec.ofNat 8 (8 + vw), 0x00, 0x00,
    0x01 ||| s.cfg.layerBbr, 0x00, 0x00] ∧
  (∀ k, k < 4 → t.buf.read (10 + k) = BitVec.ofNat 8 (key.toNat / 256 ^ k)) ∧
  (∀ k, k < vw → t.buf.read (14 + k) = BitVec.ofNat 8 (val.toNat / 256 ^ k)) ∧
  (t.buf.read (14 + vw), t.buf.read (15 + vw)) = fletcher8 (bytesAt t.buf 2 (12 + vw)) ∧
  WroteExactly s t (16 + vw)

/-- A driver's status for how a bus transaction ended (spec/60_exceptions.md R170, spec/49_host_driver.md R163). -/
def statusOf : BusResult → Status
  | .done => .ok
  | .timedOut => .timeout
  | .failed => .transportError

/-- The timeout a transport call carries: blocking calls have one, the others have "the same signature minus timeout"
(R161, R163). -/
def timeoutOf (style : TransportStyle) (timeoutMs : Nat) : Option Nat :=
  match style with
  | .blocking => some timeoutMs
  | .eventDriven => none

/-- What `init` asks of the transport, in its order (R152, R153, R160, R161): for the enable-UBX config-set and then for
the disable-NMEA one, a transmit of its bytes, the settle delay, and a receive of 10 (log 22). The first has 17 bytes; so
has the second at the width 1 that R67 gives its key from general knowledge (log 34). -/
def initCalls (p : Config) (c : DriverConfig) : List TransportCall :=
  [.transmit (BitVec.ofNat 8 (2 * c.address7.toNat))
      (frame p p.clsCfg p.idCfgValset (valsetPayload p p.keyUbx [1])) (timeoutOf c.style c.timeoutMs),
    .delay p.settleDelayMs,
    .receive (BitVec.ofNat 8 (2 * c.address7.toNat)) 10 (timeoutOf c.style c.timeoutMs),
    .transmit (BitVec.ofNat 8 (2 * c.address7.toNat))
      (frame p p.clsCfg p.idCfgValset (valsetPayload p p.keyNmea (bytesLE p.nmeaWidth.bytes 0)))
      (timeoutOf c.style c.timeoutMs),
    .delay p.settleDelayMs,
    .receive (BitVec.ofNat 8 (2 * c.address7.toNat)) 10 (timeoutOf c.style c.timeoutMs)]

/-- A round's settle delay was over within its bound (R164); a blocking delay always is. -/
def Settled (style : TransportStyle) (h : Handshake) : Prop := style = .eventDriven → h.settled = true

/-- The environment let a round of `init` succeed (R152, R153): its transmit and its receive ended well, its settle delay
was over within its bound, and what came is the Ack of Config-Set. -/
def GoodRound (p : Config) (style : TransportStyle) (h : Handshake) : Prop :=
  h.sent = .done ∧ Settled style h ∧ h.got = .done ∧ h.ack = frame p p.clsAck p.idAckAck [p.clsCfg, p.idCfgValset]

/-- `st` is VALACK's answer at SIZE 10 for Config-Set, wherever `ack` is at the start of a free bound buffer (R153). -/
def AckVerdict (p : Config) (ack : List Byte) (st : Status) : Prop :=
  ∀ s : State, s.cfg = p → s.portFree true = true → bytesAt s.buf 0 10 = ack →
    exec (.valack true 10 p.clsCfg p.idCfgValset) s = .next { s with resp := some (.status st) }

/-- The status a round of `init` ends with (R152, R153, R163): its transmit's, if that failed; Timeout, if its settle delay
was not over (log 31); its receive's, if that failed; else VALACK's on what came. -/
def RoundStatus (p : Config) (style : TransportStyle) (h : Handshake) (st : Status) : Prop :=
  (h.sent ≠ .done → st = statusOf h.sent) ∧
  (h.sent = .done → ¬ Settled style h → st = .timeout) ∧
  (h.sent = .done → Settled style h → h.got ≠ .done → st = statusOf h.got) ∧
  (h.sent = .done → Settled style h → h.got = .done → AckVerdict p h.ack st)

/-- The same outcome with other Devices beside the one in hand. -/
def withOthers (l : List Instance) (o : Host.Outcome State Fault Refusal) : Host.Outcome State Fault Refusal :=
  match o with
  | .next t => .next { t with others := l }
  | .fault r => .fault r
  | .refused r => .refused r

end Sys2Proof.Claims

open Sys2Proof Sys2Proof.Machine Sys2Proof.Claims

/-! ### Reset, the step, the invariant -/

/-- spec/10_state.md R31, spec/70_reset_and_hazards.md R200: after reset no response, nothing asked, one Device whose whole
record is zero, both buffers all zero. That every unwritten byte reads 0 and that the transmit buffer is bound are the
model's choices (log 14), and so is that the zeroed record, in which no function pointer selects a style, reads `blocking`
(log 27). That the fields beside R31's list (transfers in flight, the last returned status) are clear goes with logs 12
and 29, the one Device with log 16. -/
def Obligations.ResetIsIdleWithZeroedRecord : Prop :=
  ∀ c, (State.resetWith c).resp = none ∧ (State.resetWith c).agenda = [] ∧
    (State.resetWith c).dev = {
      initialized := false
      currentCommand := .none
      txLen := 0
      rxLen := 0
      transport := {
        busHandle := 0
        address8 := 0
        timeoutMs := 0
        style := .blocking
        hasTransmit := false
        hasReceive := false
        hasDelay := false }
      delayDone := false
      txBusy := false
      rxAwaited := none
      result := none } ∧
    (State.resetWith c).bound = .tx ∧ (State.resetWith c).others = [] ∧ (State.resetWith c).calls = [] ∧
    (∀ a, (State.resetWith c).tx.read a = 0) ∧ (∀ a, (State.resetWith c).rx.read a = 0) ∧
    (State.resetWith c).cfg = c

/-- The invariant holds at reset, whatever the parameters. -/
def Obligations.ResetMeetsInvariant : Prop := ∀ c, (State.resetWith c).Inv

/-- Every step keeps the invariant, of the Device in hand and of every other: both buffers canonical and within
BUFFER_CAPACITY, lengths within it, `initialized` only with a complete transport, only supported commands recorded (R26,
R40, R47, R152, R154, R167). -/
def Obligations.StepKeepsInvariant : Prop := ∀ s t : State, s.Inv → step s = .next t → t.Inv

/-- A step takes the agenda's first entry; a word on a port runs the instruction it decodes to; bytes that are no frame
are stored; with nothing asked the machine is idle; a table row's word runs its instruction next (log 4, log 5, log 24). -/
def Obligations.StepRunsTheDecodedWord : Prop :=
  (∀ (s : State) p rest i, s.agenda = .word p :: rest → decode s.cfg p = .ok i →
    step s = exec i { s with agenda := rest }) ∧
  (∀ (s : State) bytes rest e, s.agenda = .word (.wire bytes) :: rest → decode s.cfg (.wire bytes) = .error e →
    step s = receiveBytes bytes { s with agenda := rest }) ∧
  (∀ s : State, s.agenda = [] → step s = .next s) ∧
  (∀ (s : State) nbits w i, s.cfg = Config.standard → decodeTableWord nbits w = some i →
    step (s.withFetchWord nbits w) = exec i s)

/-- The parameters are fixed when the block is built (R28): no step changes them. -/
def Obligations.StepKeepsParameters : Prop := ∀ s t : State, step s = .next t → t.cfg = s.cfg

/-- An instruction completes exactly where it has a meaning: its buffer has no transfer in flight (R53, R206, log 12),
CKSUM is within its contract (R121, log 11), the transport may store a frame that arrives (logs 3, 23, 25). A SIZE above
BUFFER_CAPACITY (R133) and the widths 0 and 3 (R109, log 10) break the host's contract of R202 and complete all the same.
`hasMeaning` speaks of the state and the operands alone. -/
def Obligations.ExecCompletesExactlyWhereMeant : Prop :=
  ∀ (i : Instr) (s : State), (∃ t, exec i s = .next t) ↔ hasMeaning i s = true

/-- What stops an instruction, and only that: CKSUM outside its contract (R121, log 11), a buffer in flight (R53, log 12),
and, of the frame kinds, whose meaning as an arrival is the model's (log 3), an arrival of a length that was not declared
(the model's refusal, log 23) or one longer than the buffer (the model's fault, log 25). The block's own operations never
fault (R178). -/
def Obligations.ExecStopsOnlyAsNamed : Prop :=
  (∀ i s r, exec i s = .fault r → isRequest i = false ∧ s.cfg.bufferCapacity < (frameBytes s.cfg i).length) ∧
  (∀ i s r, exec i s = .refused r →
    (∃ n ofs, i = .cksum false ofs n ∧ r = .cksumNoBuffer) ∨
    (∃ n ofs, i = .cksum true ofs n ∧ s.cfg.bufferCapacity < ofs.toNat + n.toNat ∧ r = .cksumPastEnd) ∨
    (isRequest i = true ∧ s.busy s.bound = true ∧ r = .bufferInFlight) ∨
    (isRequest i = false ∧ (∃ n, s.dev.rxAwaited = some n ∧ n ≠ (frameBytes s.cfg i).length) ∧
      r = .transferLengthMismatch))

/-! ### Encodings -/

/-- Words written out from the table (R60, R65, R66, R80). The request layout is log 1, the port a table row stands on and
its byte numbering log 2, the class and id numbers of R9's defaults, which R66 calls parameters, log 7. -/
def Obligations.TableWordsDecode : Prop :=
  decodeTableWord 8 0x00 = some (.prepcmd false 0 0) ∧
  decodeTableWord 8 0x01 = some (.prepcfg false 0 false 0 0) ∧
  decodeTableWord 8 0x02 = some (.cksum false 0 0) ∧
  decodeTableWord 8 0x03 = some (.valpkt false 0 0 0) ∧
  decodeTableWord 8 0x04 = some (.valack false 0 0 0) ∧
  decodeTableWord 8 0x05 = some (.prepcfgU1 false 0 0) ∧
  decodeTableWord 8 0x06 = some (.prepcfgU2 false 0 0) ∧
  decodeTableWord 8 0x07 = some (.prepcfgU4 false 0 0) ∧
  decodeTableWord 64 0x19080000070162B5 = some .ubxNavPvtPoll ∧
  decodeTableWord 80 0xC1988A060002010562B5 = some (.ubxAckAck 0x06 0x8A 0x98 0xC1) ∧
  decodeTableWord 80 0xBC978A060002000562B5 = some (.ubxAckNak 0x06 0x8A 0x97 0xBC) ∧
  decodeRequest 0x70100008#141 = .prepcmd true 0x01 0x07

/-- Decoding an encoded well-formed instruction gives it back, for every parameter value R9 allows. -/
def Obligations.DecodeEncodeAgree : Prop :=
  ∀ (c : Config) (i : Instr), c.wf = true → i.wf c = true → decode c (encode c i) = .ok i

/-- The bytes of a bus transaction that decode to a frame are that frame's bytes, and the frame is well formed: decoding
loses nothing (R60, R62). -/
def Obligations.FrameDecodingLosesNothing : Prop :=
  ∀ (c : Config) (bytes : List Byte) (i : Instr), decode c (.wire bytes) = .ok i →
    i.wf c = true ∧ isRequest i = false ∧ encode c i = .wire bytes

/-- Which bytes are a frame (R60, R62, R72): the two sync bytes and exactly `8 + length` bytes. -/
def Obligations.FrameDecodingAcceptsWholeFrames : Prop :=
  ∀ (c : Config) (bytes : List Byte), (∃ i, decode c (.wire bytes) = .ok i) ↔
    ∃ cls id lo hi rest, bytes = 0xB5 :: 0x62 :: cls :: id :: lo :: hi :: rest ∧
      bytes.length = 8 + lo.toNat + 256 * hi.toNat

/-- R22: the fields an operation reads are its operands, and a field it does not read may hold anything. -/
def Obligations.RequestFieldsReadAsListed : Prop :=
  ∀ bufp size cls id key valp val vw ofs count,
    decodeRequest (packRequest 0 bufp size cls id key valp val vw ofs count) = .prepcmd bufp cls id ∧
    decodeRequest (packRequest 1 bufp size cls id key valp val vw ofs count) = .prepcfg bufp key valp val vw ∧
    decodeRequest (packRequest 2 bufp size cls id key valp val vw ofs count) = .cksum bufp ofs count ∧
    decodeRequest (packRequest 3 bufp size cls id key valp val vw ofs count) = .valpkt bufp size cls id ∧
    decodeRequest (packRequest 4 bufp size cls id key valp val vw ofs count) = .valack bufp size cls id ∧
    decodeRequest (packRequest 5 bufp size cls id key valp val vw ofs count) = .prepcfgU1 bufp key (val.extractLsb' 0 8) ∧
    decodeRequest (packRequest 6 bufp size cls id key valp val vw ofs count) = .prepcfgU2 bufp key (val.extractLsb' 0 16) ∧
    decodeRequest (packRequest 7 bufp size cls id key valp val vw ofs count) = .prepcfgU4 bufp key val

/-- R81: every request word is a request; its operation is the one its OP selects. That OP stands at bits 0 to 2 of the
word is the model's layout (DESIGN CHOICE, log 1). -/
def Obligations.EveryRequestWordIsARequest : Prop :=
  ∀ w : RequestWord, ∃ i, decode Config.standard (.request w) = .ok i ∧ isRequest i = true ∧
    ∃ w' : RequestWord, encode Config.standard i = .request w' ∧ w'.extractLsb' 0 3 = w.extractLsb' 0 3

/-- R171: the 3-bit codes of STATUS; 6 and 7 are never produced. -/
def Obligations.StatusCodesAsListed : Prop :=
  Status.code .ok = 0 ∧ Status.code .error = 1 ∧ Status.code .invalidParam = 2 ∧ Status.code .timeout = 3 ∧
    Status.code .checksumError = 4 ∧ Status.code .transportError = 5 ∧
    ∀ st : Status, st.code ≠ 6 ∧ st.code ≠ 7

/-- R9, R10, R61: the capacity's bounds, MAX_PAYLOAD, and room for the longest frame an encoder writes. -/
def Obligations.CapacityBounds : Prop :=
  ∀ c : Config, 20 ≤ c.bufferCapacity ∧ c.bufferCapacity ≤ 65535 ∧ c.maxPayload = c.bufferCapacity - 8 ∧
    12 ≤ c.maxPayload

/-! ### Buffer memory -/

/-- R12, R41, R42: multi-byte access is little-endian, byte by byte; other offsets keep their bytes; the example of R42. -/
def Obligations.WideAccessIsLittleEndian : Prop :=
  (∀ (m : Memory) addr n v, m.wf = true →
    (m.memWrite addr n v).memRead addr n = v % 256 ^ n ∧
    (∀ k, k < n → (m.memWrite addr n v).read (addr + k) = BitVec.ofNat 8 (v / 256 ^ k)) ∧
    (∀ a, a < addr ∨ addr + n ≤ a → (m.memWrite addr n v).read a = m.read a)) ∧
  (∀ m : Memory, m.wf = true → bytesAt (m.memWrite 10 4 0x10720001) 10 4 = [0x01, 0x00, 0x72, 0x10])

/-- Equal contents are equal data, and a write keeps the canonical form. -/
def Obligations.BufferContentsAreCanonical : Prop :=
  (∀ m m' : Memory, m.wf = true → m'.wf = true → (∀ a, m.read a = m'.read a) → m = m') ∧
  (∀ (m : Memory) i v, m.wf = true → (m.write i v).wf = true)

/-- R48: an encoder that succeeds writes exactly offsets 0 to SIZE-1 of the bound buffer, each of them whatever it held
before, and leaves every other byte; one that fails (size 0), CKSUM and the validators write nothing. R30: no operation
touches the host's record. -/
def Obligations.OperationsWriteOnlyTheirFrame : Prop :=
  ∀ (i : Instr) (s t : State), isRequest i = true → exec i s = .next t →
    (∀ n : Half, t.resp = some (.size n) → n ≠ 0 →
      WroteExactly s t n.toNat ∧
      ∀ s' t' : State, s.buf.wf = true → s'.buf.wf = true → s'.cfg = s.cfg → exec i s' = .next t' →
        bytesAt t'.buf 0 n.toNat = bytesAt t.buf 0 n.toNat) ∧
    ((∀ n : Half, t.resp = some (.size n) → n = 0) → t = { s with resp := t.resp })

/-- R20: the answer and the buffer after an operation are a function of its request and the bound buffer (with the
parameters the block is built with), and of nothing else: not of the response before, the other buffer, the host's record
or what is asked next. -/
def Obligations.BlockIsStateless : Prop :=
  ∀ (i : Instr) (s s' t t' : State), isRequest i = true → s.cfg = s'.cfg → s.buf = s'.buf →
    exec i s = .next t → exec i s' = .next t' → t'.resp = t.resp ∧ t'.buf = t.buf

/-- R23, R172: each operation answers its own kind of result, the validators one of four statuses; a frame's arrival
answers nothing (log 3). -/
def Obligations.EachOperationAnswersItsOwnResult : Prop :=
  (∀ (s t : State) bufp cls id, exec (.prepcmd bufp cls id) s = .next t → t.resp = some (.size (if bufp then 8 else 0))) ∧
  (∀ (s t : State) bufp key valp val vw, exec (.prepcfg bufp key valp val vw) s = .next t → ∃ n, t.resp = some (.size n)) ∧
  (∀ (s t : State) bufp key val, exec (.prepcfgU1 bufp key val) s = .next t →
    t.resp = some (.size (if bufp then 17 else 0))) ∧
  (∀ (s t : State) bufp key val, exec (.prepcfgU2 bufp key val) s = .next t →
    t.resp = some (.size (if bufp then 18 else 0))) ∧
  (∀ (s t : State) bufp key val, exec (.prepcfgU4 bufp key val) s = .next t →
    t.resp = some (.size (if bufp then 20 else 0))) ∧
  (∀ (s t : State) bufp ofs count, exec (.cksum bufp ofs count) s = .next t → ∃ a b, t.resp = some (.checksum a b)) ∧
  (∀ (s t : State) bufp size cls id,
    exec (.valpkt bufp size cls id) s = .next t ∨ exec (.valack bufp size cls id) s = .next t →
    ∃ st, t.resp = some (.status st) ∧ (st = .ok ∨ st = .error ∨ st = .invalidParam ∨ st = .checksumError)) ∧
  (∀ (i : Instr) (s t : State), isRequest i = false → exec i s = .next t → t.resp = s.resp)

/-! ### The encoders -/

/-- R100: PREPCMD writes the zero-payload frame and answers 8; with no buffer it answers 0 and writes nothing. -/
def Obligations.PrepcmdWritesTheCommandFrame : Prop :=
  (∀ (s : State) cls id, s.buf.wf = true → s.portFree true = true →
    ∃ t, exec (.prepcmd true cls id) s = .next t ∧
      bytesAt t.buf 0 6 = [0xB5, 0x62, cls, id, 0x00, 0x00] ∧
      (t.buf.read 6, t.buf.read 7) = fletcher8 (bytesAt t.buf 2 4) ∧
      WroteExactly s t 8) ∧
  (∀ (s : State) cls id, exec (.prepcmd false cls id) s = .next { s with resp := some (.size 0) })

/-- R101: the closed form of the PREPCMD checksum. -/
def Obligations.PrepcmdChecksumClosedForm : Prop :=
  ∀ (s t : State) cls id, s.buf.wf = true → exec (.prepcmd true cls id) s = .next t →
    (t.buf.read 6).toNat = (cls.toNat + id.toNat) % 256 ∧ (t.buf.read 7).toNat = (4 * cls.toNat + 3 * id.toNat) % 256

/-- R104 with R68 and R69: PREPCFG writes the Config-Set frame with VW value bytes, VW 1, 2 or 4, and answers 16 + VW; with
no buffer, no value or VW > 4 it answers 0 and writes nothing. -/
def Obligations.PrepcfgWritesTheConfigSetFrame : Prop :=
  (∀ (s : State) key val (vw : Byte), s.buf.wf = true → s.portFree true = true → vw = 1 ∨ vw = 2 ∨ vw = 4 →
    ∃ t, exec (.prepcfg true key true val vw) s = .next t ∧ WroteConfigSet s t key val vw.toNat) ∧
  (∀ (s : State) bufp key valp val (vw : Byte), s.portFree bufp = true →
    (bufp = false ∨ valp = false ∨ 4 < vw.toNat) →
    exec (.prepcfg bufp key valp val vw) s = .next { s with resp := some (.size 0) })

/-- R109: the widths 0 and 3, which no wrapper has, take the same literal rule: a frame with no value bytes, or with three.
The literal reading is the spec's own decision D10 and the model's choice (DEDUCED, log 10; U3). -/
def Obligations.PrepcfgWidthsZeroAndThreeByTheLiteralRule : Prop :=
  ∀ (s : State) key val (vw : Byte), s.buf.wf = true → s.portFree true = true → vw = 0 ∨ vw = 3 →
    ∃ t, exec (.prepcfg true key true val vw) s = .next t ∧ WroteConfigSet s t key val vw.toNat

/-- R105, R106, R107: the typed wrappers are PREPCFG with a present value of 1, 2 and 4 bytes; on success they answer 17,
18 and 20, their length bytes are 0x09, 0x0A, 0x0C and their value bytes stand from offset 14; with no buffer they answer
0 and write nothing. -/
def Obligations.TypedWrappersWriteTheirFrames : Prop :=
  (∀ (s : State) bufp key (val : Byte),
    exec (.prepcfgU1 bufp key val) s = exec (.prepcfg bufp key true (val.zeroExtend 32) 1) s) ∧
  (∀ (s : State) bufp key (val : Half),
    exec (.prepcfgU2 bufp key val) s = exec (.prepcfg bufp key true (val.zeroExtend 32) 2) s) ∧
  (∀ (s : State) bufp key val, exec (.prepcfgU4 bufp key val) s = exec (.prepcfg bufp key true val 4) s) ∧
  (∀ (s : State) key (val : Byte), s.buf.wf = true → s.portFree true = true →
    ∃ t, exec (.prepcfgU1 true key val) s = .next t ∧ WroteExactly s t 17 ∧ t.buf.read 4 = 0x09 ∧
      t.buf.read 14 = val) ∧
  (∀ (s : State) key (val : Half), s.buf.wf = true → s.portFree true = true →
    ∃ t, exec (.prepcfgU2 true key val) s = .next t ∧ WroteExactly s t 18 ∧ t.buf.read 4 = 0x0A ∧
      t.buf.read 14 = val.extractLsb' 0 8 ∧ t.buf.read 15 = val.extractLsb' 8 8) ∧
  (∀ (s : State) key (val : Word), s.buf.wf = true → s.portFree true = true →
    ∃ t, exec (.prepcfgU4 true key val) s = .next t ∧ WroteExactly s t 20 ∧ t.buf.read 4 = 0x0C ∧
      t.buf.read 14 = val.extractLsb' 0 8 ∧ t.buf.read 15 = val.extractLsb' 8 8 ∧
      t.buf.read 16 = val.extractLsb' 16 8 ∧ t.buf.read 17 = val.extractLsb' 24 8) ∧
  (∀ (s : State) key v1 v2 v4,
    exec (.prepcfgU1 false key v1) s = .next { s with resp := some (.size 0) } ∧
    exec (.prepcfgU2 false key v2) s = .next { s with resp := some (.size 0) } ∧
    exec (.prepcfgU4 false key v4) s = .next { s with resp := some (.size 0) })

/-- R108: what an encoder writes, the validator accepts against the intended class and id, and the embedded checksum is
CKSUM's over the same byte range. -/
def Obligations.EncoderRoundTrip : Prop :=
  (∀ (s t : State) i n, s.buf.wf = true →
    (∃ bufp key valp val vw, i = .prepcfg bufp key valp val vw) ∨ (∃ bufp key val, i = .prepcfgU1 bufp key val) ∨
      (∃ bufp key val, i = .prepcfgU2 bufp key val) ∨ (∃ bufp key val, i = .prepcfgU4 bufp key val) →
    exec i s = .next t → t.resp = some (.size n) → 0 < n.toNat →
    exec (.valpkt true n s.cfg.clsCfg s.cfg.idCfgValset) t = .next { t with resp := some (.status .ok) } ∧
    exec (.cksum true 2 (n - 4)) t =
      .next { t with resp := some (.checksum (t.buf.read (n.toNat - 2)) (t.buf.read (n.toNat - 1))) }) ∧
  (∀ (s t : State) cls id, s.buf.wf = true → exec (.prepcmd true cls id) s = .next t →
    exec (.valpkt true 8 cls id) t = .next { t with resp := some (.status .ok) } ∧
    exec (.cksum true 2 4) t = .next { t with resp := some (.checksum (t.buf.read 6) (t.buf.read 7)) })

/-! ### The checksum -/

/-- R120: both accumulators seeded at 0; ckA gains each byte and ckB the ckA just updated, mod 256. -/
def Obligations.FletcherRecurrence : Prop :=
  fletcher8 [] = (0, 0) ∧
  ∀ (s : List Byte) (b : Byte),
    (fletcher8 (s ++ [b])).1.toNat = ((fletcher8 s).1.toNat + b.toNat) % 256 ∧
    (fletcher8 (s ++ [b])).2.toNat = ((fletcher8 s).2.toNat + (fletcher8 (s ++ [b])).1.toNat) % 256

/-- R122: the closed form; the first byte is weighted `n` and the last 1. -/
def Obligations.FletcherClosedForm : Prop :=
  ∀ s : List Byte,
    (fletcher8 s).1.toNat = ((List.range s.length).map fun i => (s.getD i 0).toNat).sum % 256 ∧
    (fletcher8 s).2.toNat = ((List.range s.length).map fun i => (s.length - i) * (s.getD i 0).toNat).sum % 256

/-- R125, first sentence: one position differs, then ckA differs, and by that difference. -/
def Obligations.FletcherSeesEverySingleByte : Prop :=
  ∀ (p q : List Byte) (x y : Byte),
    (fletcher8 (p ++ x :: q)).1 - (fletcher8 (p ++ y :: q)).1 = x - y ∧
    (x ≠ y → (fletcher8 (p ++ x :: q)).1 ≠ (fletcher8 (p ++ y :: q)).1)

/-- R121: CKSUM answers Fletcher8 of its region and writes nothing; a request with no buffer, or past the end, is
refused. -/
def Obligations.CksumAnswersItsRegion : Prop :=
  (∀ (s : State) (ofs count : Half), s.portFree true = true → ofs.toNat + count.toNat ≤ s.cfg.bufferCapacity →
    exec (.cksum true ofs count) s = .next { s with resp := some (.checksum
      (fletcher8 (bytesAt s.buf ofs.toNat count.toNat)).1 (fletcher8 (bytesAt s.buf ofs.toNat count.toNat)).2) }) ∧
  (∀ (s : State) ofs count, exec (.cksum false ofs count) s = .refused .cksumNoBuffer) ∧
  (∀ (s : State) (ofs count : Half), s.cfg.bufferCapacity < ofs.toNat + count.toNat →
    exec (.cksum true ofs count) s = .refused .cksumPastEnd)

/-! ### The validators -/

/-- R130: the seven steps, each with its status, in their order; the buffer is not written. That an absent buffer is
InvalidParam and a SIZE below 8 is Error are decisions D6 and D7 (DEDUCED, log 8; U6). -/
def Obligations.ValpktStepsInOrder : Prop :=
  (∀ (s : State) size cls id, exec (.valpkt false size cls id) s = .next { s with resp := some (.status .invalidParam) }) ∧
  (∀ (s : State) (size : Half) cls id, s.portFree true = true →
    ∃ t st, exec (.valpkt true size cls id) s = .next t ∧ AnsweredStatus s t st ∧
      (size.toNat < 8 → st = .error) ∧
      (8 ≤ size.toNat → s.buf.read 0 ≠ 0xB5 ∨ s.buf.read 1 ≠ 0x62 → st = .error) ∧
      (8 ≤ size.toNat → s.buf.read 0 = 0xB5 → s.buf.read 1 = 0x62 → s.buf.read 2 ≠ cls ∨ s.buf.read 3 ≠ id → st = .error) ∧
      (8 ≤ size.toNat → s.buf.read 0 = 0xB5 → s.buf.read 1 = 0x62 → s.buf.read 2 = cls → s.buf.read 3 = id →
        ∀ length, length = (s.buf.read 4).toNat + 256 * (s.buf.read 5).toNat →
          (s.cfg.maxPayload < length → st = .error) ∧
          (length ≤ s.cfg.maxPayload → size.toNat ≠ 6 + length + 2 → st = .error) ∧
          (length ≤ s.cfg.maxPayload → size.toNat = 6 + length + 2 →
            (s.buf.read (6 + length) ≠ (fletcher8 (bytesAt s.buf 2 (length + 4))).1 ∨
              s.buf.read (7 + length) ≠ (fletcher8 (bytesAt s.buf 2 (length + 4))).2 → st = .checksumError) ∧
            (s.buf.read (6 + length) = (fletcher8 (bytesAt s.buf 2 (length + 4))).1 →
              s.buf.read (7 + length) = (fletcher8 (bytesAt s.buf 2 (length + 4))).2 → st = .ok))))

/-- R132: acceptance as one condition, the other statuses by exclusion. The InvalidParam of an absent buffer, and that a
SIZE below 8 is among the Errors, are log 8's (DEDUCED). -/
def Obligations.ValpktAcceptsExactlyFrames : Prop :=
  ∀ (s : State) bufp (size : Half) cls id, s.portFree bufp = true →
    ∃ t st, exec (.valpkt bufp size cls id) s = .next t ∧ AnsweredStatus s t st ∧
      (st = .ok ↔ bufp = true ∧ ∃ payload : List Byte, payload.length ≤ s.cfg.maxPayload ∧
        size.toNat = 8 + payload.length ∧ bytesAt s.buf 0 size.toNat = frame s.cfg cls id payload) ∧
      (st = .checksumError ↔ bufp = true ∧ ∃ (payload : List Byte) (a b : Byte), payload.length ≤ s.cfg.maxPayload ∧
        size.toNat = 8 + payload.length ∧ bytesAt s.buf 0 size.toNat = frameWith s.cfg cls id payload a b ∧
        (a, b) ≠ regionChecksum cls id payload) ∧
      (st = .invalidParam ↔ bufp = false) ∧
      (st = .ok ∨ st = .checksumError ∨ st = .invalidParam ∨ st = .error)

/-- R47, R49: no validator's answer depends on a byte at or above SIZE, or at or above BUFFER_CAPACITY; with SIZE < 8 it
depends on no byte at all. -/
def Obligations.ValidatorsReadOnlyDeclaredBytes : Prop :=
  ∀ (s s' t : State) bufp (size : Half) cls id i, s.cfg = s'.cfg →
    (i = .valpkt bufp size cls id ∨ i = .valack bufp size cls id) → s'.portFree bufp = true →
    (8 ≤ size.toNat → ∀ a, a < size.toNat → a < s.cfg.bufferCapacity → s.buf.read a = s'.buf.read a) →
    exec i s = .next t → exec i s' = .next { s' with resp := t.resp }

/-- R133, R136's ground: a SIZE the buffer cannot hold is rejected with Error, whatever the buffer holds. -/
def Obligations.OversizedSizeIsRejected : Prop :=
  ∀ (s : State) (size : Half) cls id, s.portFree true = true → s.cfg.bufferCapacity < size.toNat →
    exec (.valpkt true size cls id) s = .next { s with resp := some (.status .error) } ∧
    exec (.valack true size cls id) s = .next { s with resp := some (.status .error) }

/-- R125: changing any one byte of an accepted frame, its checksum bytes apart, makes the validator fail: Error for a
header byte, ChecksumError for a payload byte. -/
def Obligations.SingleByteChangeIsRejected : Prop :=
  ∀ (s t : State) (size : Half) cls id a (v : Byte), s.buf.wf = true →
    exec (.valpkt true size cls id) s = .next t → t.resp = some (.status .ok) → a + 2 < size.toNat → v ≠ s.buf.read a →
    ∃ u, exec (.valpkt true size cls id) (s.setBuffer s.bound (s.buf.write a v)) = .next u ∧
      u.resp = some (.status (if a < 6 then .error else .checksumError))

/-- R135: VALACK's verdict from VALPKT's against the Ack's own class and id, the guarded Nack inspection, and the echo
comparison; the buffer is not written. The guard on offset 3 (D8) and the comparison at any declared length (D9, R137) are
the model's choices (DEDUCED, log 9; U7). -/
def Obligations.ValackVerdict : Prop :=
  ∀ (s : State) bufp (size : Half) cls id, s.portFree bufp = true →
    ∃ inner st, exec (.valpkt bufp size s.cfg.clsAck s.cfg.idAckAck) s = .next { s with resp := some (.status inner) } ∧
      exec (.valack bufp size cls id) s = .next { s with resp := some (.status st) } ∧
      (inner ≠ .ok → bufp = true → 8 ≤ size.toNat → s.buf.read 3 = s.cfg.idAckNak → st = .error) ∧
      (inner ≠ .ok → bufp = false ∨ size.toNat < 8 ∨ s.buf.read 3 ≠ s.cfg.idAckNak → st = inner) ∧
      (inner = .ok → s.buf.read 6 ≠ cls ∨ s.buf.read 7 ≠ id → st = .error) ∧
      (inner = .ok → s.buf.read 6 = cls → s.buf.read 7 = id → st = .ok)

/-- R136: the Nack branch cannot be told from the surfaced status, by the one requirement R9 puts on the parameters: where
it is taken the inner status is Error already, so VALACK answers what the function without it answers. -/
def Obligations.ValackNackBranchIsInvisible : Prop :=
  ∀ (s : State) bufp (size : Half) cls id, s.cfg.wf = true → s.portFree bufp = true →
    ∃ inner, exec (.valpkt bufp size s.cfg.clsAck s.cfg.idAckAck) s = .next { s with resp := some (.status inner) } ∧
      (bufp = true → 8 ≤ size.toNat → s.buf.read 3 = s.cfg.idAckNak → inner = .error) ∧
      exec (.valack bufp size cls id) s = .next { s with resp := some (.status
        (if inner ≠ .ok then inner else if s.buf.read 6 ≠ cls ∨ s.buf.read 7 ≠ id then .error else .ok)) }

/-- R138: at SIZE 10, Ok exactly for a whole Ack that echoes the command. -/
def Obligations.TenByteAckMatchesItsCommand : Prop :=
  ∀ (s : State) bufp cls id, s.portFree bufp = true →
    ∃ t st, exec (.valack bufp 10 cls id) s = .next t ∧ AnsweredStatus s t st ∧
      (st = .ok ↔ bufp = true ∧ bytesAt s.buf 0 10 = frame s.cfg s.cfg.clsAck s.cfg.idAckAck [cls, id])

/-- R137: no check that the Ack's length is 2; a zero-length Ack-class frame "echoes" its checksum bytes. That VALACK
compares at this length at all is decision D9, the model's choice and no fact of VALACK (DEDUCED, log 9; U7). -/
def Obligations.ZeroLengthAckComparesItsChecksum : Prop :=
  ∀ (s : State) cls id, s.portFree true = true → bytesAt s.buf 0 8 = frame s.cfg s.cfg.clsAck s.cfg.idAckAck [] →
    (exec (.valack true 8 cls id) s = .next { s with resp := some (.status .ok) } ↔
      (cls, id) = regionChecksum s.cfg.clsAck s.cfg.idAckAck [])

/-! ### Buffers in flight, frames arriving -/

/-- R53, R206: an operation on a buffer with a transfer in flight has no meaning; nor has a host write to it, and nor have
the driver's calls that would use it (log 12). -/
def Obligations.BufferInFlightIsRefused : Prop :=
  (∀ (s : State) cls id key valp val vw v1 v2 v4 size, s.busy s.bound = true →
    exec (.prepcmd true cls id) s = .refused .bufferInFlight ∧
    exec (.prepcfg true key valp val vw) s = .refused .bufferInFlight ∧
    exec (.prepcfgU1 true key v1) s = .refused .bufferInFlight ∧
    exec (.prepcfgU2 true key v2) s = .refused .bufferInFlight ∧
    exec (.prepcfgU4 true key v4) s = .refused .bufferInFlight ∧
    exec (.valpkt true size cls id) s = .refused .bufferInFlight ∧
    exec (.valack true size cls id) s = .refused .bufferInFlight) ∧
  (∀ (s : State) (ofs count : Half), s.busy s.bound = true → ofs.toNat + count.toNat ≤ s.cfg.bufferCapacity →
    exec (.cksum true ofs count) s = .refused .bufferInFlight) ∧
  (∀ (s : State) b a v, s.busy b = true → issue s (.poke b a v) = .refused .bufferInFlight) ∧
  (∀ (s : State) b c h1 h2, s.busy b = true → c.hasTransmit = true → c.hasReceive = true → c.hasDelay = true →
    issue s (.driverInit c h1 h2) = .refused .bufferInFlight) ∧
  (∀ (s : State) r, s.dev.txBusy = true → s.dev.initialized = true →
    issue s (.driverCommand .readNavPvt r) = .refused .bufferInFlight) ∧
  (∀ (s : State) n, s.dev.rxAwaited = some n →
    issue s (.driverValidate .readNavPvt) = .refused .bufferInFlight ∧
    (s.dev.initialized = true → s.dev.currentCommand = .readNavPvt →
      ∀ r bytes, issue s (.driverRead r bytes) = .refused .bufferInFlight))

/-- R159, R163: a transfer in flight ends when the transport says so. A transmit's end frees the transmit buffer. A receive
that lapses frees the receive buffer; the bytes that came, as many as were declared at the most, stay in it and their count
is the receive length, which the spec does not say (log 19). A late delay callback sets the delay-done flag (log 31). Each moves
nothing else. -/
def Obligations.TransfersEndAsTheTransportSays : Prop :=
  (∀ s : State, issue s .transmitEnded = .next { s with dev := { s.dev with txBusy := false } }) ∧
  (∀ (s : State) n bytes, s.rx.wf = true → s.dev.rxAwaited = some n →
    ∃ t, issue s (.receiveLapsed bytes) = .next t ∧
      bytesAt t.rx 0 (bytes.take n).length = bytes.take n ∧
      (∀ a, (bytes.take n).length ≤ a → t.rx.read a = s.rx.read a) ∧
      t = { s with rx := t.rx, dev := { s.dev with
        rxLen := BitVec.ofNat 16 (bytes.take n).length
        rxAwaited := none } }) ∧
  (∀ (s : State) bytes, s.dev.rxAwaited = none → issue s (.receiveLapsed bytes) = .next s) ∧
  (∀ s : State, issue s .delayElapsed = .next { s with dev := { s.dev with delayDone := true } })

/-- The frame kinds, in the model's reading (log 3): a frame the transport may store arrives in the receive buffer, byte
for byte as the table lays it out (R60, R64, R65, R66), and nothing else moves. -/
def Obligations.FramesArriveAsTheTableLaysThemOut : Prop :=
  ∀ s : State, s.rx.wf = true →
    (∀ cls id (p : List Byte) a b, s.accepts (p.length + 8) = true →
      ∃ t, exec (.ubxHeader cls id p a b) s = .next t ∧
        Received s t ([0xB5, 0x62, cls, id, BitVec.ofNat 8 p.length, BitVec.ofNat 8 (p.length / 256)] ++ p ++ [a, b])) ∧
    (∀ (key : Word) (value : List Byte) a b, s.accepts (value.length + 16) = true →
      ∃ t, exec (.ubxCfgValset key value a b) s = .next t ∧
        Received s t ([0xB5, 0x62, s.cfg.clsCfg, s.cfg.idCfgValset, BitVec.ofNat 8 (8 + value.length),
          BitVec.ofNat 8 ((8 + value.length) / 256), 0x00, 0x01 ||| s.cfg.layerBbr, 0x00, 0x00,
          key.extractLsb' 0 8, key.extractLsb' 8 8, key.extractLsb' 16 8, key.extractLsb' 24 8] ++ value ++ [a, b])) ∧
    (∀ cls id a b, s.accepts 10 = true →
      ∃ t, exec (.ubxAckAck cls id a b) s = .next t ∧
        Received s t [0xB5, 0x62, s.cfg.clsAck, s.cfg.idAckAck, 0x02, 0x00, cls, id, a, b]) ∧
    (∀ cls id a b, s.accepts 10 = true →
      ∃ t, exec (.ubxAckNak cls id a b) s = .next t ∧
        Received s t [0xB5, 0x62, s.cfg.clsAck, s.cfg.idAckNak, 0x02, 0x00, cls, id, a, b]) ∧
    (s.accepts 8 = true →
      ∃ t, exec .ubxNavPvtPoll s = .next t ∧
        Received s t [0xB5, 0x62, s.cfg.clsNav, s.cfg.idNavPvt, 0x00, 0x00, s.cfg.clsNav + s.cfg.idNavPvt,
          4 * s.cfg.clsNav + 3 * s.cfg.idNavPvt]) ∧
    (∀ (p : List Byte) a b, p.length = 92 → s.accepts 100 = true →
      ∃ t, exec (.ubxNavPvt p a b) s = .next t ∧
        Received s t ([0xB5, 0x62, s.cfg.clsNav, s.cfg.idNavPvt, 0x5C, 0x00] ++ p ++ [a, b])) ∧
    (∀ (p : List Byte) a b, p.length = 16 → s.accepts 24 = true →
      ∃ t, exec (.ubxNavStatus p a b) s = .next t ∧
        Received s t ([0xB5, 0x62, s.cfg.clsNav, s.cfg.idNavStatus, 0x10, 0x00] ++ p ++ [a, b]))

/-- An Ack that arrives whole is accepted by VALACK for the command it echoes and for no other; a Nack is an Error
whatever its checksum (R135, R138, R177); the arrival is the model's (log 3). -/
def Obligations.ArrivedAcknowledgmentsAreJudged : Prop :=
  (∀ (s t : State) x y a b cls id, s.rx.wf = true → s.cfg.wf = true → exec (.ubxAckAck x y a b) s = .next t →
    t.bound = .rx →
    exec (.valack true t.dev.rxLen cls id) t = .next { t with resp := some (.status
      (if (a, b) ≠ regionChecksum s.cfg.clsAck s.cfg.idAckAck [x, y] then .checksumError
        else if (x, y) = (cls, id) then .ok else .error)) }) ∧
  (∀ (s t : State) x y a b cls id, s.rx.wf = true → s.cfg.wf = true → exec (.ubxAckNak x y a b) s = .next t →
    t.bound = .rx → exec (.valack true t.dev.rxLen cls id) t = .next { t with resp := some (.status .error) })

/-! ### The host's driver (spec/49_host_driver.md; outside the block by R5, modelled by log 17) -/

/-- R158: "`command` and `read` both fail with `InvalidParam` when invoked on a Device that has not completed `init`";
R154, R156: so do an unsupported command type and a read with no recognized command pending. -/
def Obligations.CommandAndReadAreGated : Prop :=
  (∀ (s : State) t r, s.dev.initialized = false ∨ t ≠ .readNavPvt →
    ∃ u, issue s (.driverCommand t r) = .next u ∧ ReturnedOnly s u .invalidParam) ∧
  (∀ (s : State) r bytes, s.dev.initialized = false ∨ s.dev.currentCommand ≠ .readNavPvt →
    ∃ u, issue s (.driverRead r bytes) = .next u ∧ ReturnedOnly s u .invalidParam)

/-- R154: `command` builds the poll frame in the transmit buffer, records the command and issues the transmit of its 8
bytes; a failed transmit is reported, the command recorded all the same (log 30). In the event-driven style the buffer is
then in flight (log 12). The transport sees the call itself (R161, log 32). -/
def Obligations.CommandSendsThePoll : Prop :=
  ∀ (s : State) r, s.tx.wf = true → s.dev.initialized = true → s.dev.txBusy = false →
    ∃ u, issue s (.driverCommand .readNavPvt r) = .next u ∧
      bytesAt u.tx 0 8 = frame s.cfg s.cfg.clsNav s.cfg.idNavPvt [] ∧ (∀ a, 8 ≤ a → u.tx.read a = s.tx.read a) ∧
      u.rx = s.rx ∧ u.cfg = s.cfg ∧ u.bound = .tx ∧ u.agenda = s.agenda ∧ u.resp = some (.size 8) ∧
      u.others = s.others ∧ u.calls = s.calls ++ [.transmit s.dev.transport.address8
        (frame s.cfg s.cfg.clsNav s.cfg.idNavPvt []) (timeoutOf s.dev.transport.style s.dev.transport.timeoutMs)] ∧
      u.dev = { s.dev with
        txLen := 8
        currentCommand := .readNavPvt
        txBusy := decide (r = .done ∧ s.dev.transport.style = .eventDriven)
        result := some (statusOf r) }

/-- R156: `read` asks the transport for exactly 100 bytes for Navigation-PVT. Blocking, they end in the receive buffer, and
another count reported as success is refused (log 23); event-driven, `read` returns with that receive in flight (R159, log
12), and the arrival completes it. A receive that times out or fails is reported as such (R163); what it leaves is the
model's choice, the bytes that came and their count as the receive length (log 19). A buffer of fewer than 100 bytes has no
room for it (R10): a fault (log 25). -/
def Obligations.ReadTakesExactlyOneHundredBytes : Prop :=
  ∀ (s : State) (bytes : List Byte) calls, s.rx.wf = true → s.dev.initialized = true →
    s.dev.currentCommand = .readNavPvt → s.dev.rxAwaited = none →
    calls = s.calls ++ [.receive s.dev.transport.address8 100
      (timeoutOf s.dev.transport.style s.dev.transport.timeoutMs)] →
    (s.cfg.bufferCapacity < 100 → ∀ r, issue s (.driverRead r bytes) = .fault .offsetOutsideBuffer) ∧
    (100 ≤ s.cfg.bufferCapacity →
      (s.dev.transport.style = .blocking → bytes.length = 100 →
        ∃ u, issue s (.driverRead .done bytes) = .next u ∧ bytesAt u.rx 0 100 = bytes ∧
          (∀ a, 100 ≤ a → u.rx.read a = s.rx.read a) ∧
          u = { s with rx := u.rx, calls := calls, dev := { s.dev with rxLen := 100, result := some .ok } }) ∧
      (s.dev.transport.style = .blocking → bytes.length ≠ 100 →
        issue s (.driverRead .done bytes) = .refused .transferLengthMismatch) ∧
      (s.dev.transport.style = .eventDriven →
        ∃ u, issue s (.driverRead .done bytes) = .next u ∧
          u = { s with calls := calls, dev := { s.dev with rxAwaited := some 100, result := some .ok } } ∧
          (bytes.length = 100 → ∃ v, issue u (.word (.wire bytes)) = .next v ∧
            bytesAt v.rx 0 100 = bytes ∧ v.dev.rxLen = 100 ∧ v.dev.rxAwaited = none)) ∧
      (∀ r, r ≠ .done →
        ∃ u, issue s (.driverRead r bytes) = .next u ∧
          bytesAt u.rx 0 (bytes.take 100).length = bytes.take 100 ∧
          (∀ a, (bytes.take 100).length ≤ a → u.rx.read a = s.rx.read a) ∧
          u = { s with rx := u.rx, calls := calls, dev := { s.dev with
            rxLen := BitVec.ofNat 16 (bytes.take 100).length
            result := some (statusOf r) } }))

/-- R157: `validate_response` is VALPKT of the receive buffer against the command's class and id, the status unchanged. Its
size is R157's 100 or, as R83 has it, the bytes received, also by a receive that failed or lapsed (log 19): a parameter, for
the rules differ where the last receive was no read that ended well (log 33). At 100 only a declared length of 92 is accepted. A command type with no expected class and
id is InvalidParam (log 20). -/
def Obligations.ValidateResponseIsValpkt : Prop :=
  (∀ (s : State) (size : Half), s.dev.rxAwaited = none →
    size = (match s.cfg.validateSize with
      | .declared => 100
      | .received => s.dev.rxLen) →
    ∃ st, exec (.valpkt true size s.cfg.clsNav s.cfg.idNavPvt) { s with bound := .rx } =
        .next { s with bound := .rx, resp := some (.status st) } ∧
      issue s (.driverValidate .readNavPvt) =
        .next { s with bound := .rx, resp := some (.status st), dev := { s.dev with result := some st } } ∧
      (size = 100 → st = .ok → (s.rx.read 4).toNat + 256 * (s.rx.read 5).toNat = 92)) ∧
  (∀ (s : State) c, c ≠ .readNavPvt → ∃ u, issue s (.driverValidate c) = .next u ∧ ReturnedOnly s u .invalidParam)

/-- R67, R83: the catalogue begins with the three keys R67 lists, each paired with the width of its value; the wrapper of a
key's width, which is the one the host takes, completes and writes that key with so many bytes of the value. That UBX output
has width 1 is the source's; the widths 1 and 2 of the other two are general knowledge and Config fields (log 34). Which
keys follow the three is a Config field too, since the source does not say that there are exactly three (91 N3); that they
come first in a list is the model's choice (DESIGN CHOICE, log 35). -/
def Obligations.CatalogueKeysUseTheirWrapper : Prop :=
  (∀ c : Config, c.catalogue.map (fun i => (i.key, i.width.bytes)) =
    [(c.keyUbx, 1), (c.keyNmea, c.nmeaWidth.bytes), (c.keyRate, c.rateWidth.bytes)] ++
      c.moreItems.map (fun i => (i.key, i.width.bytes))) ∧
  Config.standard.nmeaWidth.bytes = 1 ∧ Config.standard.rateWidth.bytes = 2 ∧
  (∀ (key v : Word), itemRequest ⟨key, .one⟩ v = .prepcfgU1 true key (v.extractLsb' 0 8) ∧
    itemRequest ⟨key, .two⟩ v = .prepcfgU2 true key (v.extractLsb' 0 16) ∧
    itemRequest ⟨key, .four⟩ v = .prepcfgU4 true key v) ∧
  (∀ (s : State) i v, i ∈ s.cfg.catalogue → s.buf.wf = true → s.portFree true = true →
    ∃ t, exec (itemRequest i v) s = .next t ∧ WroteConfigSet s t i.key v i.width.bytes)

/-- R152, R158: whatever the transport does, `init` sets `initialized` exactly when it returns Ok, and returns Ok only when
every pointer is present and both transmits, both settle delays, both receives and both acknowledgments were good; a failed
`init` leaves `initialized` false. Which pointers are required is the model's choice: transmit, receive and delay (DESIGN
CHOICE, log 27); so is that a second `init` that fails at once shuts the gate an earlier one opened (DEDUCED, log 18). -/
def Obligations.InitSetsTheGateOnlyOnFullSuccess : Prop :=
  ∀ (s t : State) c h1 h2, issue s (.driverInit c h1 h2) = .next t →
    ∃ st, t.dev.result = some st ∧ (t.dev.initialized = true ↔ st = .ok) ∧
      (c.hasTransmit = false ∨ c.hasReceive = false ∨ c.hasDelay = false → st = .invalidParam) ∧
      (st = .ok → GoodRound s.cfg c.style h1 ∧ GoodRound s.cfg c.style h2)

/-- R152, R153, R161, R162: `init` asks of the transport a transmit of each config-set's bytes, the settle delay and a
receive of 10, in that order, at the shifted address (R160), and stops at the first failure: a transmit that fails, a settle
delay not over within its bound (log 31), a receive that fails or an acknowledgment that VALACK does not accept, in the
first round or in the second; Ok needs all six calls. That they are recorded is log 32. -/
def Obligations.InitCallsTheTransportInOrder : Prop :=
  ∀ (s t : State) c h1 h2, c.hasTransmit = true → c.hasReceive = true → c.hasDelay = true →
    issue s (.driverInit c h1 h2) = .next t →
    ∃ k, t.calls = s.calls ++ (initCalls s.cfg c).take k ∧
      (h1.sent ≠ .done → k = 1) ∧
      (h1.sent = .done → ¬ Settled c.style h1 → k = 2) ∧
      (h1.sent = .done → Settled c.style h1 → ¬ GoodRound s.cfg c.style h1 → k = 3) ∧
      (GoodRound s.cfg c.style h1 → h2.sent ≠ .done → k = 4) ∧
      (GoodRound s.cfg c.style h1 → h2.sent = .done → ¬ Settled c.style h2 → k = 5) ∧
      (GoodRound s.cfg c.style h1 → h2.sent = .done → Settled c.style h2 → k = 6) ∧
      (t.dev.result = some .ok → k = 6)

/-- R152: "Any transport failure or Ack validation failure aborts the sequence and returns that failure's status". With every
pointer present and no transfer in flight `init` completes (its receives, where they end well, of the ten bytes they
declared: logs 22, 23) and returns the first round's status if that round was not good, else the second's: of a failed
transmit or receive the transport's (R163), of a settle delay not over Timeout (log 31), of an acknowledgment VALACK's
(R153). The gate is open exactly on Ok. -/
def Obligations.InitReturnsTheFirstFailuresStatus : Prop :=
  ∀ (s : State) (c : DriverConfig) (h1 h2 : Handshake),
    c.hasTransmit = true → c.hasReceive = true → c.hasDelay = true →
    s.dev.txBusy = false → s.dev.rxAwaited = none →
    (h1.got = .done → h1.ack.length = 10) → (h2.got = .done → h2.ack.length = 10) →
    ∃ t st, issue s (.driverInit c h1 h2) = .next t ∧ t.dev.result = some st ∧
      (t.dev.initialized = true ↔ st = .ok) ∧
      (¬ GoodRound s.cfg c.style h1 → st ≠ .ok ∧ RoundStatus s.cfg c.style h1 st) ∧
      (GoodRound s.cfg c.style h1 → RoundStatus s.cfg c.style h2 st)

/-- R152, R153, R160: with every pointer present, both transmits done, both delays over and both acknowledgments right,
`init` succeeds; it ends with the "disable NMEA output" frame in the transmit buffer, 17 bytes at the width R67 gives that
key (log 34). -/
def Obligations.InitSucceedsOnGoodAcks : Prop :=
  ∀ (s : State) (c : DriverConfig) (h1 h2 : Handshake),
    c.hasTransmit = true → c.hasReceive = true → c.hasDelay = true →
    s.dev.txBusy = false → s.dev.rxAwaited = none →
    h1.sent = .done → h1.settled = true → h1.got = .done →
    h1.ack = frame s.cfg s.cfg.clsAck s.cfg.idAckAck [s.cfg.clsCfg, s.cfg.idCfgValset] →
    h2.sent = .done → h2.settled = true → h2.got = .done →
    h2.ack = frame s.cfg s.cfg.clsAck s.cfg.idAckAck [s.cfg.clsCfg, s.cfg.idCfgValset] →
    ∃ t, issue s (.driverInit c h1 h2) = .next t ∧ t.dev.initialized = true ∧ t.dev.result = some .ok ∧
      bytesAt t.tx 0 (16 + s.cfg.nmeaWidth.bytes) = frame s.cfg s.cfg.clsCfg s.cfg.idCfgValset
        (valsetPayload s.cfg s.cfg.keyNmea (bytesLE s.cfg.nmeaWidth.bytes 0)) ∧
      (∀ a, 16 + s.cfg.nmeaWidth.bytes ≤ a → t.tx.read a = 0) ∧ t.dev.txLen.toNat = 16 + s.cfg.nmeaWidth.bytes ∧
      bytesAt t.rx 0 10 = h2.ack ∧ (∀ a, 10 ≤ a → t.rx.read a = 0) ∧ t.dev.rxLen = 10 ∧
      t.dev.currentCommand = .none ∧ t.dev.transport.address8.toNat = 2 * c.address7.toNat ∧
      t.calls = s.calls ++ initCalls s.cfg c

/-- R152, R158: a Nack for the first config-set ends `init` with Error; the second config-set is not built, nothing is
retried. -/
def Obligations.InitAbortsOnTheFirstNack : Prop :=
  ∀ (s : State) (c : DriverConfig) (h1 h2 : Handshake),
    s.cfg.wf = true → c.hasTransmit = true → c.hasReceive = true → c.hasDelay = true →
    s.dev.txBusy = false → s.dev.rxAwaited = none →
    h1.sent = .done → h1.settled = true → h1.got = .done →
    h1.ack = frame s.cfg s.cfg.clsAck s.cfg.idAckNak [s.cfg.clsCfg, s.cfg.idCfgValset] →
    ∃ t, issue s (.driverInit c h1 h2) = .next t ∧ t.dev.initialized = false ∧ t.dev.result = some .error ∧
      bytesAt t.tx 0 17 = frame s.cfg s.cfg.clsCfg s.cfg.idCfgValset (valsetPayload s.cfg s.cfg.keyUbx [1]) ∧
      t.calls = s.calls ++ (initCalls s.cfg c).take 3

/-- R150, R152: nothing but `init` changes the transport configuration of the Device in hand or its gate; turning to another
Device changes which one is in hand (R167, log 16). -/
def Obligations.OnlyInitChangesTheTransport : Prop :=
  ∀ (s t : State) a rest, s.agenda = a :: rest → step s = .next t → (∀ c h1 h2, a ≠ .driverInit c h1 h2) →
    (∀ k, a ≠ .use k) → t.dev.transport = s.dev.transport ∧ t.dev.initialized = s.dev.initialized

/-- R167, R184: "instances do not interact through the block". Whatever is done with the Device in hand comes out the same
whatever other Devices there are, and leaves them as they are. -/
def Obligations.DevicesDoNotInteract : Prop :=
  ∀ (s : State) a l, (∀ k, a ≠ .use k) → a ≠ .construct →
    issue { s with others := l } a = withOthers l (issue s a) ∧
    ∀ t, issue s a = .next t → t.others = s.others

/-- R150, R167, in the model's form (log 16): a further Device is constructed zeroed, with its own buffers; the host turns
to one of them and back; a Device that was never constructed cannot be turned to. -/
def Obligations.DevicesKeepTheirOwnState : Prop :=
  (∀ s : State, issue s .construct =
    .next { s with others := s.others ++ [{ tx := [], rx := [], dev := (State.resetWith s.cfg).dev }] }) ∧
  (∀ (s : State) k i, s.others[k]? = some i →
    ∃ t, issue s (.use k) = .next t ∧ t.tx = i.tx ∧ t.rx = i.rx ∧ t.dev = i.dev ∧
      t = { s with tx := t.tx, rx := t.rx, dev := t.dev, others := t.others } ∧
      t.others.length = s.others.length ∧
      t.others[k]? = some { tx := s.tx, rx := s.rx, dev := s.dev } ∧
      (∀ j, j ≠ k → t.others[j]? = s.others[j]?) ∧ issue t (.use k) = .next s) ∧
  (∀ (s : State) k, s.others.length ≤ k → issue s (.use k) = .fault .deviceAbsent)

/-- R160: whatever becomes of `init`, once its configuration is accepted (R152) the transport is handed twice the 7-bit
address, bit 0 clear. -/
def Obligations.BusAddressIsShiftedLeft : Prop :=
  ∀ (s t : State) (c : DriverConfig) h1 h2, c.hasTransmit = true → c.hasReceive = true → c.hasDelay = true →
    issue s (.driverInit c h1 h2) = .next t →
    t.dev.transport.address8.toNat = c.address7.toNat * 2 % 256 ∧ t.dev.transport.address8.getLsbD 0 = false

/-- The host's own handling of its buffers between requests (spec/95_test_vectors.md P1): a write changes one byte of one
buffer; at an offset the buffer does not have it faults (log 25); binding a buffer moves nothing else. -/
def Obligations.HostWritesOneByte : Prop :=
  (∀ (s : State) b a v, (s.buffer b).wf = true → s.busy b = false → a < s.cfg.bufferCapacity →
    ∃ t, issue s (.poke b a v) = .next t ∧ (t.buffer b).read a = v ∧
      (∀ x, x ≠ a → (t.buffer b).read x = (s.buffer b).read x) ∧ (∀ b', b' ≠ b → t.buffer b' = s.buffer b') ∧
      t.cfg = s.cfg ∧ t.bound = s.bound ∧ t.resp = s.resp ∧ t.dev = s.dev ∧ t.others = s.others ∧
      t.calls = s.calls ∧ t.agenda = s.agenda) ∧
  (∀ (s : State) b a v, s.busy b = false → s.cfg.bufferCapacity ≤ a →
    issue s (.poke b a v) = .fault .offsetOutsideBuffer) ∧
  (∀ (s : State) b, issue s (.bind b) = .next { s with bound := b })
end

