-- ==== Sys2Proof/Laws/Bytes.lean ====
section
/-! SUPPORT. The values of the fixed parameters; the laws of operand assembly and of the checksum: little-endian round
trips, frame lengths, the checksum of an appended sequence. -/

namespace Sys2Proof

/-- A fixed parameter has the source's value. -/
@[simp] theorem Fixed.val_eq {α : Type} {v : α} (x : Fixed v) : x.val = v := x.property

@[simp] theorem overhead_eq (c : Config) : c.overhead = 8 := by simp [Config.overhead]

@[simp] theorem bytesLE_length (n v : Nat) : (bytesLE n v).length = n := by
  induction n generalizing v with
  | zero => rfl
  | succ n ih => simp [bytesLE, ih]

/-- Byte `k` of a little-endian value is `(v div 256^k) mod 256` (R12). -/
theorem bytesLE_getElem (n v k : Nat) (hk : k < (bytesLE n v).length) :
    (bytesLE n v)[k] = BitVec.ofNat 8 (v / 256 ^ k) := by
  induction n generalizing v k with
  | zero => simp at hk
  | succ n ih =>
    cases k with
    | zero => simp [bytesLE]
    | succ k =>
      simp only [bytesLE, List.getElem_cons_succ]
      rw [ih (v / 256) k]
      rw [Nat.div_div_eq_div_mul, Nat.pow_succ, Nat.mul_comm]

/-- The little-endian value of a little-endian value's bytes. -/
theorem natLE_bytesLE (n v : Nat) : natLE (bytesLE n v) = v % 256 ^ n := by
  induction n generalizing v with
  | zero => simp [bytesLE, natLE, Nat.mod_one]
  | succ n ih =>
    rw [bytesLE, natLE, ih, BitVec.toNat_ofNat, Nat.pow_succ 256, Nat.mul_comm (256 ^ n) 256, Nat.mod_mul]

theorem natLE_lt (bs : List Byte) : natLE bs < 256 ^ bs.length := by
  induction bs with
  | nil => simp [natLE]
  | cons b bs ih =>
    have := b.isLt
    simp only [natLE, List.length_cons, Nat.pow_succ]
    omega

theorem bytesLE_natLE (bs : List Byte) : bytesLE bs.length (natLE bs) = bs := by
  induction bs with
  | nil => rfl
  | cons b bs ih =>
    have hb := b.isLt
    simp only [List.length_cons, bytesLE, natLE]
    congr 1
    · apply BitVec.eq_of_toNat_eq
      simp only [BitVec.toNat_ofNat]
      omega
    · rw [show (b.toNat + 256 * natLE bs) / 256 = natLE bs by omega, ih]

/-- The length field of a header, read back (R70). -/
theorem le16_bytes (n : Nat) (h : n < 65536) : le16 (BitVec.ofNat 8 n) (BitVec.ofNat 8 (n / 256)) = n := by
  simp only [le16, BitVec.toNat_ofNat]
  omega

theorem le16_lt (lo hi : Byte) : le16 lo hi < 65536 := by
  have := lo.isLt
  have := hi.isLt
  simp only [le16]
  omega

theorem bytesLE_le16 (lo hi : Byte) : bytesLE 2 (le16 lo hi) = [lo, hi] := by
  have := bytesLE_natLE [lo, hi]
  simpa [natLE, le16] using this

@[simp] theorem headerBody_length (cls id : Byte) (n : Nat) : (headerBody cls id n).length = 4 := by simp [headerBody]

/-- A frame is `8 + length` bytes (R62). -/
@[simp] theorem frameWith_length (c : Config) (cls id : Byte) (p : List Byte) (a b : Byte) :
    (frameWith c cls id p a b).length = p.length + 8 := by
  simp only [frameWith, List.length_cons, List.length_append, headerBody_length, List.length_nil]
  omega

@[simp] theorem frame_length (c : Config) (cls id : Byte) (p : List Byte) : (frame c cls id p).length = p.length + 8 := by simp [frame]

@[simp] theorem valsetHead_length (c : Config) (key : Word) : (valsetHead c key).length = 8 := by simp [valsetHead]

@[simp] theorem valsetPayload_length (c : Config) (key : Word) (v : List Byte) :
    (valsetPayload c key v).length = v.length + 8 := by
  simp [valsetPayload, Nat.add_comm]

/-- The bytes of a frame, laid out (R46, R60). -/
theorem frameWith_eq (c : Config) (cls id : Byte) (p : List Byte) (a b : Byte) :
    frameWith c cls id p a b =
      0xB5 :: 0x62 :: cls :: id :: BitVec.ofNat 8 p.length :: BitVec.ofNat 8 (p.length / 256) :: (p ++ [a, b]) := by
  simp [frameWith, headerBody, bytesLE]

/-! ### The checksum -/

@[simp] theorem fletcher8_nil : fletcher8 [] = (0, 0) := rfl

/-- One more byte: ckA gains it, and ckB gains the new ckA (R120). -/
theorem fletcher8_append_one (s : List Byte) (b : Byte) :
    fletcher8 (s ++ [b]) = ((fletcher8 s).1 + b, (fletcher8 s).2 + ((fletcher8 s).1 + b)) := by
  simp [fletcher8, fletcherStep]

theorem fletcher_fold_fst (acc : Byte × Byte) (s : List Byte) :
    (s.foldl fletcherStep acc).1 = acc.1 + (fletcher8 s).1 := by
  induction s using List.reverseRecOn generalizing acc with
  | nil => simp
  | append_singleton s b ih =>
    rw [fletcher8_append_one, List.foldl_append]
    simp only [List.foldl_cons, List.foldl_nil, fletcherStep, ih]
    rw [BitVec.add_assoc]

/-- ckA of two sequences one after the other is the sum. -/
theorem fletcher8_append_fst (s t : List Byte) : (fletcher8 (s ++ t)).1 = (fletcher8 s).1 + (fletcher8 t).1 := by
  rw [fletcher8, List.foldl_append, fletcher_fold_fst]
  rfl

end Sys2Proof
end

