-- ==== Sys2Proof/Laws/Codec.lean ====
section
/-! SUPPORT. The laws of the request word and of frame decoding: each field reads back what was packed, and a frame's
bytes come apart into what they were made of. -/

namespace Sys2Proof

theorem bitAt_ofBool (b : Bool) : (BitVec.ofBool b == 1#1) = b := by cases b <;> rfl

section pack
variable (op : BitVec 3) (bufp : Bool) (size : Half) (cls id : Byte) (key : Word) (valp : Bool) (val : Word) (vw : Byte)
  (ofs count : Half)

@[simp] theorem reqOp_pack : reqOp (packRequest op bufp size cls id key valp val vw ofs count) = op := by
  rw [reqOp, packRequest, BitVec.extractLsb'_append_eq_right]
@[simp] theorem reqBufp_pack : reqBufp (packRequest op bufp size cls id key valp val vw ofs count) = bufp := by
  rw [reqBufp, bitAt, packRequest, BitVec.extractLsb'_append_eq_of_le (by decide), BitVec.extractLsb'_append_eq_right]
  exact bitAt_ofBool bufp
@[simp] theorem reqSize_pack : reqSize (packRequest op bufp size cls id key valp val vw ofs count) = size := by
  rw [reqSize, packRequest]
  iterate 2 rw [BitVec.extractLsb'_append_eq_of_le (by decide)]
  exact BitVec.extractLsb'_append_eq_right
@[simp] theorem reqCls_pack : reqCls (packRequest op bufp size cls id key valp val vw ofs count) = cls := by
  rw [reqCls, packRequest]
  iterate 3 rw [BitVec.extractLsb'_append_eq_of_le (by decide)]
  exact BitVec.extractLsb'_append_eq_right
@[simp] theorem reqId_pack : reqId (packRequest op bufp size cls id key valp val vw ofs count) = id := by
  rw [reqId, packRequest]
  iterate 4 rw [BitVec.extractLsb'_append_eq_of_le (by decide)]
  exact BitVec.extractLsb'_append_eq_right
@[simp] theorem reqKey_pack : reqKey (packRequest op bufp size cls id key valp val vw ofs count) = key := by
  rw [reqKey, packRequest]
  iterate 5 rw [BitVec.extractLsb'_append_eq_of_le (by decide)]
  exact BitVec.extractLsb'_append_eq_right
@[simp] theorem reqValp_pack : reqValp (packRequest op bufp size cls id key valp val vw ofs count) = valp := by
  rw [reqValp, bitAt, packRequest]
  iterate 6 rw [BitVec.extractLsb'_append_eq_of_le (by decide)]
  rw [BitVec.extractLsb'_append_eq_right]
  exact bitAt_ofBool valp
@[simp] theorem reqVal_pack : reqVal (packRequest op bufp size cls id key valp val vw ofs count) = val := by
  rw [reqVal, packRequest]
  iterate 7 rw [BitVec.extractLsb'_append_eq_of_le (by decide)]
  exact BitVec.extractLsb'_append_eq_right
@[simp] theorem reqVw_pack : reqVw (packRequest op bufp size cls id key valp val vw ofs count) = vw := by
  rw [reqVw, packRequest]
  iterate 8 rw [BitVec.extractLsb'_append_eq_of_le (by decide)]
  exact BitVec.extractLsb'_append_eq_right
@[simp] theorem reqOfs_pack : reqOfs (packRequest op bufp size cls id key valp val vw ofs count) = ofs := by
  rw [reqOfs, packRequest]
  iterate 9 rw [BitVec.extractLsb'_append_eq_of_le (by decide)]
  exact BitVec.extractLsb'_append_eq_right
@[simp] theorem reqCount_pack : reqCount (packRequest op bufp size cls id key valp val vw ofs count) = count := by
  rw [reqCount, packRequest]
  iterate 9 rw [BitVec.extractLsb'_append_eq_of_le (by decide)]
  exact BitVec.extractLsb'_append_eq_left
end pack

/-- A frame's bytes come apart into what they were made of (R60, R62). -/
theorem decodeFrame_frameWith (c : Config) (cls id : Byte) (p : List Byte) (a b : Byte) (h : p.length < 65536) :
    decodeFrame c (frameWith c cls id p a b) = .ok (classifyFrame c cls id p a b) := by
  rw [frameWith_eq]
  simp only [decodeFrame, le16_bytes _ h]
  simp

/-- What decodes is a whole frame: its bytes are the header, the payload and the two checksum bytes (R60, R62). -/
theorem decodeFrame_ok {c : Config} {bytes : List Byte} {i : Instr} (h : decodeFrame c bytes = .ok i) :
    ∃ cls id p a b, p.length < 65536 ∧ bytes = frameWith c cls id p a b ∧ i = classifyFrame c cls id p a b := by
  match bytes with
  | s1 :: s2 :: cls :: id :: lo :: hi :: rest =>
    simp only [decodeFrame] at h
    split at h
    · cases h
    · rename_i hs
      split at h
      · cases h
      · split at h
        · cases h
        · rename_i h1 h2
          simp only [Fixed.val_eq] at h1 h2
          have hlen : rest.length = le16 lo hi + 2 := by omega
          have hl := le16_lt lo hi
          have hs1 : s1 = 0xB5 ∧ s2 = 0x62 := by simpa using hs
          have hb := bytesLE_le16 lo hi
          simp only [bytesLE, List.cons.injEq, and_true] at hb
          refine ⟨cls, id, rest.take (le16 lo hi), rest.getD (le16 lo hi) 0, rest.getD (le16 lo hi + 1) 0, ?_, ?_, ?_⟩
          · simp; omega
          · rw [frameWith_eq]
            have ht : (rest.take (le16 lo hi)).length = le16 lo hi := by simp; omega
            rw [ht, hb.1, hb.2, hs1.1, hs1.2]
            have : rest = rest.take (le16 lo hi) ++ [rest.getD (le16 lo hi) 0, rest.getD (le16 lo hi + 1) 0] := by
              conv_lhs => rw [← List.take_append_drop (le16 lo hi) rest]
              congr 1
              apply List.ext_getElem
              · simp; omega
              · intro k hk1 hk2
                have : k = 0 ∨ k = 1 := by simp at hk2; omega
                rcases this with rfl | rfl <;> simp [List.getD_eq_getElem?_getD, hlen]
            rw [← this]
          · cases h; rfl
  | [] => cases h
  | [_] => cases h
  | [_, _] => cases h
  | [_, _, _] => cases h
  | [_, _, _, _] => cases h
  | [_, _, _, _, _] => cases h
/-! ### What each frame predicate says -/

theorem isValset_iff {c : Config} {cls id : Byte} {p : List Byte} : isValset c cls id p = true ↔
    cls = c.clsCfg ∧ id = c.idCfgValset ∧ 8 ≤ p.length ∧ p.length ≤ 12 ∧ p.take 4 = [0x00, c.layerMask, 0, 0] := by
  simp only [isValset, Bool.and_eq_true, beq_iff_eq, decide_eq_true_eq]
  simp only [Fixed.val_eq, and_assoc]

theorem isAckAck_iff {c : Config} {cls id : Byte} {p : List Byte} : isAckAck c cls id p = true ↔
    cls = c.clsAck ∧ id = c.idAckAck ∧ p.length = 2 := by
  simp only [isAckAck, Bool.and_eq_true, beq_iff_eq, Fixed.val_eq, and_assoc]

theorem isAckNak_iff {c : Config} {cls id : Byte} {p : List Byte} : isAckNak c cls id p = true ↔
    cls = c.clsAck ∧ id = c.idAckNak ∧ p.length = 2 := by
  simp only [isAckNak, Bool.and_eq_true, beq_iff_eq, Fixed.val_eq, and_assoc]

theorem isPvtPoll_iff {c : Config} {cls id : Byte} {p : List Byte} {a b : Byte} : isPvtPoll c cls id p a b = true ↔
    cls = c.clsNav ∧ id = c.idNavPvt ∧ p = [] ∧ (a, b) = regionChecksum cls id [] := by
  simp only [isPvtPoll, Bool.and_eq_true, beq_iff_eq, List.length_eq_zero_iff, and_assoc]

theorem isNavPvt_iff {c : Config} {cls id : Byte} {p : List Byte} : isNavPvt c cls id p = true ↔
    cls = c.clsNav ∧ id = c.idNavPvt ∧ p.length = 92 := by
  simp only [isNavPvt, Bool.and_eq_true, beq_iff_eq, Fixed.val_eq, and_assoc]

theorem isNavStatus_iff {c : Config} {cls id : Byte} {p : List Byte} : isNavStatus c cls id p = true ↔
    cls = c.clsNav ∧ id = c.idNavStatus ∧ p.length = 16 := by
  simp only [isNavStatus, Bool.and_eq_true, beq_iff_eq, Fixed.val_eq, and_assoc]

theorem wf_ubxHeader_iff {c : Config} {cls id : Byte} {p : List Byte} {a b : Byte} :
    (Instr.ubxHeader cls id p a b).wf c = true ↔ p.length < 65536 ∧ isNamedFrame c cls id p a b = false := by
  simp only [Instr.wf, Bool.and_eq_true, decide_eq_true_eq, Bool.not_eq_true']

theorem wf_ubxCfgValset_iff {c : Config} {key : Word} {v : List Byte} {a b : Byte} :
    (Instr.ubxCfgValset key v a b).wf c = true ↔ v.length ≤ 4 := by
  simp only [Instr.wf, Fixed.val_eq, decide_eq_true_eq]

/-- A classified frame keeps its bytes: whichever kind it is, they are the ones it was read from (R60, R64 to R66). -/
theorem frameBytes_classifyFrame (c : Config) (cls id : Byte) (p : List Byte) (a b : Byte) :
    frameBytes c (classifyFrame c cls id p a b) = frameWith c cls id p a b := by
  unfold classifyFrame
  split
  · rename_i h
    obtain ⟨rfl, rfl, h8, h12, ht⟩ := isValset_iff.1 h
    simp only [frameBytes]
    congr 1
    simp only [valsetPayload, valsetHead, Fixed.val_eq]
    have h4 : ((p.drop 4).take 4).length = 4 := by simp; omega
    have e : bytesLE 4 (BitVec.ofNat 32 (natLE ((p.drop 4).take 4))).toNat = (p.drop 4).take 4 := by
      have hl := natLE_lt ((p.drop 4).take 4)
      rw [h4] at hl
      rw [BitVec.toNat_ofNat, Nat.mod_eq_of_lt (by simpa using hl)]
      have := bytesLE_natLE ((p.drop 4).take 4)
      rwa [h4] at this
    rw [e, ← ht]
    conv_rhs => rw [← List.take_append_drop 8 p, show 8 = 4 + 4 from rfl, List.take_add]
  split
  · rename_i h
    obtain ⟨rfl, rfl, h2⟩ := isAckAck_iff.1 h
    match p, h2 with
    | [x, y], _ => rfl
  split
  · rename_i h
    obtain ⟨rfl, rfl, h2⟩ := isAckNak_iff.1 h
    match p, h2 with
    | [x, y], _ => rfl
  split
  · rename_i h
    obtain ⟨rfl, rfl, rfl, h3⟩ := isPvtPoll_iff.1 h
    simp [frameBytes, frame, ← h3]
  split
  · rename_i h
    obtain ⟨rfl, rfl, -⟩ := isNavPvt_iff.1 h
    rfl
  split
  · rename_i h
    obtain ⟨rfl, rfl, -⟩ := isNavStatus_iff.1 h
    rfl
  · rfl

/-- A classified frame is well formed. -/
theorem classifyFrame_wf (c : Config) (cls id : Byte) (p : List Byte) (a b : Byte) (h : p.length < 65536) :
    (classifyFrame c cls id p a b).wf c = true := by
  unfold classifyFrame
  split
  · rename_i hv
    have := isValset_iff.1 hv
    rw [wf_ubxCfgValset_iff]
    simp
    omega
  split
  · rfl
  split
  · rfl
  split
  · rfl
  split
  · rename_i hv
    simp [Instr.wf, (isNavPvt_iff.1 hv).2.2]
  split
  · rename_i hv
    simp [Instr.wf, (isNavStatus_iff.1 hv).2.2]
  · simp_all [Instr.wf, isNamedFrame]

end Sys2Proof
end

