-- ==== Sys2Proof/Laws/State.lean ====
section
/-! SUPPORT. One lemma per field per update, so that no proof unfolds a record update. -/

namespace Sys2Proof.Machine

@[simp] theorem buffer_tx (s : State) : s.buffer .tx = s.tx := rfl
@[simp] theorem buffer_rx (s : State) : s.buffer .rx = s.rx := rfl
@[simp] theorem busy_tx (s : State) : s.busy .tx = s.dev.txBusy := rfl
@[simp] theorem busy_rx (s : State) : s.busy .rx = s.dev.rxAwaited.isSome := rfl

section respond
variable (s : State) (r : Response)
@[simp] theorem respond_cfg : (s.respond r).cfg = s.cfg := rfl
@[simp] theorem respond_tx : (s.respond r).tx = s.tx := rfl
@[simp] theorem respond_rx : (s.respond r).rx = s.rx := rfl
@[simp] theorem respond_bound : (s.respond r).bound = s.bound := rfl
@[simp] theorem respond_resp : (s.respond r).resp = some r := rfl
@[simp] theorem respond_dev : (s.respond r).dev = s.dev := rfl
@[simp] theorem respond_agenda : (s.respond r).agenda = s.agenda := rfl
@[simp] theorem respond_others : (s.respond r).others = s.others := rfl
@[simp] theorem respond_calls : (s.respond r).calls = s.calls := rfl
@[simp] theorem respond_buf : (s.respond r).buf = s.buf := by
  cases h : s.bound <;> simp [State.buf, State.buffer, h]
@[simp] theorem respond_buffer (b : Buffer) : (s.respond r).buffer b = s.buffer b := by cases b <;> rfl
@[simp] theorem respond_busy (b : Buffer) : (s.respond r).busy b = s.busy b := by cases b <;> rfl
end respond

section setBuffer
variable (s : State) (b : Buffer) (m : Memory)
@[simp] theorem setBuffer_cfg : (s.setBuffer b m).cfg = s.cfg := by cases b <;> rfl
@[simp] theorem setBuffer_bound : (s.setBuffer b m).bound = s.bound := by cases b <;> rfl
@[simp] theorem setBuffer_resp : (s.setBuffer b m).resp = s.resp := by cases b <;> rfl
@[simp] theorem setBuffer_dev : (s.setBuffer b m).dev = s.dev := by cases b <;> rfl
@[simp] theorem setBuffer_agenda : (s.setBuffer b m).agenda = s.agenda := by cases b <;> rfl
@[simp] theorem setBuffer_others : (s.setBuffer b m).others = s.others := by cases b <;> rfl
@[simp] theorem setBuffer_calls : (s.setBuffer b m).calls = s.calls := by cases b <;> rfl
@[simp] theorem setBuffer_busy (c : Buffer) : (s.setBuffer b m).busy c = s.busy c := by cases b <;> cases c <;> rfl
@[simp] theorem setBuffer_same : (s.setBuffer b m).buffer b = m := by cases b <;> rfl
theorem setBuffer_other {c : Buffer} (h : c ≠ b) : (s.setBuffer b m).buffer c = s.buffer c := by
  cases b <;> cases c <;> first | rfl | exact absurd rfl h
@[simp] theorem setBuffer_tx_tx : (s.setBuffer .tx m).tx = m := rfl
@[simp] theorem setBuffer_tx_rx : (s.setBuffer .tx m).rx = s.rx := rfl
@[simp] theorem setBuffer_rx_rx : (s.setBuffer .rx m).rx = m := rfl
@[simp] theorem setBuffer_rx_tx : (s.setBuffer .rx m).tx = s.tx := rfl
end setBuffer

section emit
variable (s : State) (bytes : List Byte)
@[simp] theorem emit_cfg : (s.emit bytes).cfg = s.cfg := by simp [State.emit]
@[simp] theorem emit_bound : (s.emit bytes).bound = s.bound := by simp [State.emit]
@[simp] theorem emit_dev : (s.emit bytes).dev = s.dev := by simp [State.emit]
@[simp] theorem emit_agenda : (s.emit bytes).agenda = s.agenda := by simp [State.emit]
@[simp] theorem emit_others : (s.emit bytes).others = s.others := by simp [State.emit]
@[simp] theorem emit_calls : (s.emit bytes).calls = s.calls := by simp [State.emit]
@[simp] theorem emit_resp : (s.emit bytes).resp = some (.size (BitVec.ofNat 16 bytes.length)) := rfl
@[simp] theorem emit_busy (b : Buffer) : (s.emit bytes).busy b = s.busy b := by simp [State.emit]
@[simp] theorem emit_buf : (s.emit bytes).buf = s.buf.writeBytes 0 bytes := by simp [State.emit, State.buf]
theorem emit_tx (h : s.bound = .tx) : (s.emit bytes).tx = s.tx.writeBytes 0 bytes := by
  simp [State.emit, State.buf, h]
theorem emit_tx_rx (h : s.bound = .tx) : (s.emit bytes).rx = s.rx := by simp [State.emit, h]
theorem emit_rx (h : s.bound = .rx) : (s.emit bytes).rx = s.rx.writeBytes 0 bytes := by
  simp [State.emit, State.buf, h]
theorem emit_rx_tx (h : s.bound = .rx) : (s.emit bytes).tx = s.tx := by simp [State.emit, h]
theorem emit_other {b : Buffer} (h : b ≠ s.bound) : (s.emit bytes).buffer b = s.buffer b := by
  simp [State.emit, setBuffer_other (h := h)]
end emit

section returnStatus
variable (s : State) (st : Status)
@[simp] theorem returnStatus_cfg : (s.returnStatus st).cfg = s.cfg := rfl
@[simp] theorem returnStatus_tx : (s.returnStatus st).tx = s.tx := rfl
@[simp] theorem returnStatus_rx : (s.returnStatus st).rx = s.rx := rfl
@[simp] theorem returnStatus_bound : (s.returnStatus st).bound = s.bound := rfl
@[simp] theorem returnStatus_resp : (s.returnStatus st).resp = s.resp := rfl
@[simp] theorem returnStatus_agenda : (s.returnStatus st).agenda = s.agenda := rfl
@[simp] theorem returnStatus_others : (s.returnStatus st).others = s.others := rfl
@[simp] theorem returnStatus_calls : (s.returnStatus st).calls = s.calls := rfl
@[simp] theorem returnStatus_dev : (s.returnStatus st).dev = { s.dev with result := some st } := rfl
end returnStatus

section withTxLen
variable (s : State) (n : Half)
@[simp] theorem withTxLen_cfg : (s.withTxLen n).cfg = s.cfg := rfl
@[simp] theorem withTxLen_tx : (s.withTxLen n).tx = s.tx := rfl
@[simp] theorem withTxLen_rx : (s.withTxLen n).rx = s.rx := rfl
@[simp] theorem withTxLen_bound : (s.withTxLen n).bound = s.bound := rfl
@[simp] theorem withTxLen_resp : (s.withTxLen n).resp = s.resp := rfl
@[simp] theorem withTxLen_agenda : (s.withTxLen n).agenda = s.agenda := rfl
@[simp] theorem withTxLen_others : (s.withTxLen n).others = s.others := rfl
@[simp] theorem withTxLen_calls : (s.withTxLen n).calls = s.calls := rfl
@[simp] theorem withTxLen_dev : (s.withTxLen n).dev = { s.dev with txLen := n } := rfl
end withTxLen

section withDelayDone
variable (s : State) (b : Bool)
@[simp] theorem withDelayDone_cfg : (s.withDelayDone b).cfg = s.cfg := rfl
@[simp] theorem withDelayDone_tx : (s.withDelayDone b).tx = s.tx := rfl
@[simp] theorem withDelayDone_rx : (s.withDelayDone b).rx = s.rx := rfl
@[simp] theorem withDelayDone_bound : (s.withDelayDone b).bound = s.bound := rfl
@[simp] theorem withDelayDone_resp : (s.withDelayDone b).resp = s.resp := rfl
@[simp] theorem withDelayDone_agenda : (s.withDelayDone b).agenda = s.agenda := rfl
@[simp] theorem withDelayDone_others : (s.withDelayDone b).others = s.others := rfl
@[simp] theorem withDelayDone_calls : (s.withDelayDone b).calls = s.calls := rfl
@[simp] theorem withDelayDone_dev : (s.withDelayDone b).dev = { s.dev with delayDone := b } := rfl
end withDelayDone

section withCommand
variable (s : State) (c : CommandType)
@[simp] theorem withCommand_cfg : (s.withCommand c).cfg = s.cfg := rfl
@[simp] theorem withCommand_tx : (s.withCommand c).tx = s.tx := rfl
@[simp] theorem withCommand_rx : (s.withCommand c).rx = s.rx := rfl
@[simp] theorem withCommand_bound : (s.withCommand c).bound = s.bound := rfl
@[simp] theorem withCommand_resp : (s.withCommand c).resp = s.resp := rfl
@[simp] theorem withCommand_agenda : (s.withCommand c).agenda = s.agenda := rfl
@[simp] theorem withCommand_others : (s.withCommand c).others = s.others := rfl
@[simp] theorem withCommand_calls : (s.withCommand c).calls = s.calls := rfl
@[simp] theorem withCommand_dev : (s.withCommand c).dev = { s.dev with currentCommand := c } := rfl
end withCommand

section withTxBusy
variable (s : State) (b : Bool)
@[simp] theorem withTxBusy_cfg : (s.withTxBusy b).cfg = s.cfg := rfl
@[simp] theorem withTxBusy_tx : (s.withTxBusy b).tx = s.tx := rfl
@[simp] theorem withTxBusy_rx : (s.withTxBusy b).rx = s.rx := rfl
@[simp] theorem withTxBusy_bound : (s.withTxBusy b).bound = s.bound := rfl
@[simp] theorem withTxBusy_resp : (s.withTxBusy b).resp = s.resp := rfl
@[simp] theorem withTxBusy_agenda : (s.withTxBusy b).agenda = s.agenda := rfl
@[simp] theorem withTxBusy_others : (s.withTxBusy b).others = s.others := rfl
@[simp] theorem withTxBusy_calls : (s.withTxBusy b).calls = s.calls := rfl
@[simp] theorem withTxBusy_dev : (s.withTxBusy b).dev = { s.dev with txBusy := b } := rfl
end withTxBusy

section withAwaited
variable (s : State) (n : Option Nat)
@[simp] theorem withAwaited_cfg : (s.withAwaited n).cfg = s.cfg := rfl
@[simp] theorem withAwaited_tx : (s.withAwaited n).tx = s.tx := rfl
@[simp] theorem withAwaited_rx : (s.withAwaited n).rx = s.rx := rfl
@[simp] theorem withAwaited_bound : (s.withAwaited n).bound = s.bound := rfl
@[simp] theorem withAwaited_resp : (s.withAwaited n).resp = s.resp := rfl
@[simp] theorem withAwaited_agenda : (s.withAwaited n).agenda = s.agenda := rfl
@[simp] theorem withAwaited_others : (s.withAwaited n).others = s.others := rfl
@[simp] theorem withAwaited_calls : (s.withAwaited n).calls = s.calls := rfl
@[simp] theorem withAwaited_dev : (s.withAwaited n).dev = { s.dev with rxAwaited := n } := rfl
end withAwaited

section withInitialized
variable (s : State) (b : Bool)
@[simp] theorem withInitialized_cfg : (s.withInitialized b).cfg = s.cfg := rfl
@[simp] theorem withInitialized_tx : (s.withInitialized b).tx = s.tx := rfl
@[simp] theorem withInitialized_rx : (s.withInitialized b).rx = s.rx := rfl
@[simp] theorem withInitialized_bound : (s.withInitialized b).bound = s.bound := rfl
@[simp] theorem withInitialized_resp : (s.withInitialized b).resp = s.resp := rfl
@[simp] theorem withInitialized_agenda : (s.withInitialized b).agenda = s.agenda := rfl
@[simp] theorem withInitialized_others : (s.withInitialized b).others = s.others := rfl
@[simp] theorem withInitialized_calls : (s.withInitialized b).calls = s.calls := rfl
@[simp] theorem withInitialized_dev : (s.withInitialized b).dev = { s.dev with initialized := b } := rfl
end withInitialized

section received
variable (s : State) (bytes : List Byte)
@[simp] theorem received_cfg : (s.received bytes).cfg = s.cfg := rfl
@[simp] theorem received_tx : (s.received bytes).tx = s.tx := rfl
@[simp] theorem received_rx : (s.received bytes).rx = s.rx.writeBytes 0 bytes := rfl
@[simp] theorem received_bound : (s.received bytes).bound = s.bound := rfl
@[simp] theorem received_resp : (s.received bytes).resp = s.resp := rfl
@[simp] theorem received_agenda : (s.received bytes).agenda = s.agenda := rfl
@[simp] theorem received_others : (s.received bytes).others = s.others := rfl
@[simp] theorem received_calls : (s.received bytes).calls = s.calls := rfl
@[simp] theorem received_dev : (s.received bytes).dev =
    { s.dev with rxLen := BitVec.ofNat 16 bytes.length, rxAwaited := none } := rfl
end received

section bindTo
variable (s : State) (b : Buffer)
@[simp] theorem bindTo_cfg : (s.bindTo b).cfg = s.cfg := rfl
@[simp] theorem bindTo_tx : (s.bindTo b).tx = s.tx := rfl
@[simp] theorem bindTo_rx : (s.bindTo b).rx = s.rx := rfl
@[simp] theorem bindTo_bound : (s.bindTo b).bound = b := rfl
@[simp] theorem bindTo_resp : (s.bindTo b).resp = s.resp := rfl
@[simp] theorem bindTo_agenda : (s.bindTo b).agenda = s.agenda := rfl
@[simp] theorem bindTo_others : (s.bindTo b).others = s.others := rfl
@[simp] theorem bindTo_calls : (s.bindTo b).calls = s.calls := rfl
@[simp] theorem bindTo_dev : (s.bindTo b).dev = s.dev := rfl
@[simp] theorem bindTo_buffer (c : Buffer) : (s.bindTo b).buffer c = s.buffer c := by cases c <;> rfl
@[simp] theorem bindTo_busy (c : Buffer) : (s.bindTo b).busy c = s.busy c := by cases c <;> rfl
@[simp] theorem bindTo_buf : (s.bindTo b).buf = s.buffer b := by cases b <;> rfl
end bindTo

section zeroed
variable (s : State) (t : Transport)
@[simp] theorem zeroed_cfg : (s.zeroed t).cfg = s.cfg := rfl
@[simp] theorem zeroed_tx : (s.zeroed t).tx = [] := rfl
@[simp] theorem zeroed_rx : (s.zeroed t).rx = [] := rfl
@[simp] theorem zeroed_bound : (s.zeroed t).bound = s.bound := rfl
@[simp] theorem zeroed_resp : (s.zeroed t).resp = s.resp := rfl
@[simp] theorem zeroed_agenda : (s.zeroed t).agenda = s.agenda := rfl
@[simp] theorem zeroed_others : (s.zeroed t).others = s.others := rfl
@[simp] theorem zeroed_calls : (s.zeroed t).calls = s.calls := rfl
@[simp] theorem zeroed_dev : (s.zeroed t).dev = { Device.zero with transport := t } := rfl
end zeroed

section asks
variable (s : State) (call : TransportCall)
@[simp] theorem asks_cfg : (s.asks call).cfg = s.cfg := rfl
@[simp] theorem asks_tx : (s.asks call).tx = s.tx := rfl
@[simp] theorem asks_rx : (s.asks call).rx = s.rx := rfl
@[simp] theorem asks_bound : (s.asks call).bound = s.bound := rfl
@[simp] theorem asks_resp : (s.asks call).resp = s.resp := rfl
@[simp] theorem asks_dev : (s.asks call).dev = s.dev := rfl
@[simp] theorem asks_others : (s.asks call).others = s.others := rfl
@[simp] theorem asks_calls : (s.asks call).calls = s.calls ++ [call] := rfl
@[simp] theorem asks_agenda : (s.asks call).agenda = s.agenda := rfl
end asks

@[simp] theorem asksTransmit_eq (s : State) : s.asksTransmit =
    s.asks (.transmit s.dev.transport.address8 (s.tx.readBytes 0 s.dev.txLen.toNat) s.dev.transport.callTimeout) := rfl
@[simp] theorem asksReceive_eq (s : State) (n : Nat) : s.asksReceive n =
    s.asks (.receive s.dev.transport.address8 n s.dev.transport.callTimeout) := rfl
@[simp] theorem asksDelay_eq (s : State) : s.asksDelay = s.asks (.delay s.cfg.settleDelayMs) := rfl

@[simp] theorem inHand_tx (s : State) : s.inHand.tx = s.tx := rfl
@[simp] theorem inHand_rx (s : State) : s.inHand.rx = s.rx := rfl
@[simp] theorem inHand_dev (s : State) : s.inHand.dev = s.dev := rfl

@[simp] theorem andThen_next (s : State) (f) : andThen (.next s) f = f s := rfl
@[simp] theorem andThen_fault (r : Fault) (f) : andThen (.fault r) f = .fault r := rfl
@[simp] theorem andThen_refused (r : Refusal) (f) : andThen (.refused r) f = .refused r := rfl

/-- What a sequence that completes did: its first part completed, and then its second. -/
theorem andThen_eq_next {o f t} (h : andThen o f = .next t) : ∃ s, o = .next s ∧ f s = .next t := by
  cases o with
  | next s => exact ⟨s, rfl, h⟩
  | fault r => cases h
  | refused r => cases h

theorem bufferCapacity_ge (c : Config) : 20 ≤ c.bufferCapacity := by
  simp [Config.bufferCapacity, minCapacity]

theorem bufferCapacity_le (c : Config) : c.bufferCapacity ≤ 65535 := by
  have := c.extra.isLt
  simp only [Config.bufferCapacity, minCapacity]
  omega

theorem maxPayload_eq (c : Config) : c.maxPayload + 8 = c.bufferCapacity := by
  have := bufferCapacity_ge c
  simp only [Config.maxPayload, overhead_eq]
  omega

@[simp] theorem responseSize_eq (c : Config) : responseSize c = 100 := by simp [responseSize]
@[simp] theorem ackSize_eq (c : Config) : ackSize c = 10 := by simp [ackSize]

end Sys2Proof.Machine
end

