-- ==== Sys2Proof/Laws/Memory.lean ====
section
/-! SUPPORT. The laws of the buffer memory: read after write, the canonical form kept, equal contents are equal data. -/

namespace Sys2Proof.Machine

theorem read_of_lt {lo : Nat} {m : Memory} (h : m.wfFrom lo = true) {i : Nat} (hi : i < lo) : m.read i = unlistedByte := by
  induction m generalizing lo with
  | nil => rfl
  | cons c t ih =>
    obtain ⟨a, v⟩ := c
    simp only [Memory.wfFrom, Bool.and_eq_true, decide_eq_true_eq] at h
    have hne : i ≠ a := by omega
    rw [Memory.read, if_neg hne]
    exact ih h.2 (by omega)

theorem wfFrom_mono {lo lo' : Nat} {m : Memory} (h : m.wfFrom lo = true) (hl : lo' ≤ lo) : m.wfFrom lo' = true := by
  cases m with
  | nil => rfl
  | cons c t =>
    obtain ⟨a, v⟩ := c
    simp only [Memory.wfFrom, Bool.and_eq_true, decide_eq_true_eq] at h ⊢
    exact ⟨⟨by omega, h.1.2⟩, h.2⟩

/-- A write keeps the canonical form, from any lower bound at or below its offset. -/
theorem write_wfFrom {lo : Nat} {m : Memory} (h : m.wfFrom lo = true) {i : Nat} (hi : lo ≤ i) (v : Byte) :
    (m.write i v).wfFrom lo = true := by
  induction m generalizing lo with
  | nil =>
    by_cases hv : v = unlistedByte <;> simp [Memory.write, Memory.wfFrom, hv, hi]
  | cons c t ih =>
    obtain ⟨a, u⟩ := c
    have h' := h
    simp only [Memory.wfFrom, Bool.and_eq_true, decide_eq_true_eq, bne_iff_ne, ne_eq] at h'
    obtain ⟨⟨hla, hu⟩, ht⟩ := h'
    simp only [Memory.write]
    split
    · rename_i hlt
      split
      · exact h
      · rename_i hv
        have : Memory.wfFrom (i + 1) ((a, u) :: t) = true := by simp [Memory.wfFrom, hu, ht]; omega
        rw [Memory.wfFrom, this]
        simp [hv, hi]
    · split
      · rename_i heq
        split
        · exact wfFrom_mono ht (by omega)
        · rename_i hv
          simp [Memory.wfFrom, hv, hla, ht]
      · have : (Memory.write t i v).wfFrom (a + 1) = true := ih ht (by omega)
        simp [Memory.wfFrom, hla, hu, this]

theorem write_wf {m : Memory} (h : m.wf = true) (i : Nat) (v : Byte) : (m.write i v).wf = true :=
  write_wfFrom h (Nat.zero_le i) v

/-- Reading where a write went gives what it wrote; this needs no canonical form. -/
theorem read_write_same_from {lo : Nat} {m : Memory} (h : m.wfFrom lo = true) (i : Nat) (v : Byte) :
    (m.write i v).read i = v := by
  induction m generalizing lo with
  | nil => by_cases hv : v = unlistedByte <;> simp [Memory.write, Memory.read, hv]
  | cons c t ih =>
    obtain ⟨a, u⟩ := c
    simp only [Memory.wfFrom, Bool.and_eq_true, decide_eq_true_eq, bne_iff_ne, ne_eq] at h
    obtain ⟨⟨hla, hu⟩, ht⟩ := h
    simp only [Memory.write]
    split
    · rename_i hlt
      split
      · rename_i hv
        rw [Memory.read, if_neg (by omega), read_of_lt ht (by omega), hv]
      · simp [Memory.read]
    · split
      · rename_i heq
        split
        · rename_i hv
          rw [read_of_lt ht (by omega), hv]
        · simp [Memory.read, heq]
      · rename_i hne
        rw [Memory.read, if_neg hne]
        exact ih ht

theorem read_write_same {m : Memory} (h : m.wf = true) (i : Nat) (v : Byte) : (m.write i v).read i = v :=
  read_write_same_from h i v

/-- A write leaves every other offset alone. -/
theorem read_write_ne (m : Memory) {i j : Nat} (hij : j ≠ i) (v : Byte) : (m.write i v).read j = m.read j := by
  induction m with
  | nil => by_cases hv : v = unlistedByte <;> simp [Memory.write, Memory.read, hv, hij]
  | cons c t ih =>
    obtain ⟨a, u⟩ := c
    simp only [Memory.write]
    split
    · split
      · rfl
      · simp [Memory.read, hij]
    · split
      · rename_i heq
        subst heq
        split
        · simp [Memory.read, hij]
        · simp [Memory.read, hij]
      · simp only [Memory.read, ih]

theorem write_below {m : Memory} {n : Nat} (h : m.below n = true) {i : Nat} (hi : i < n) (v : Byte) :
    (m.write i v).below n = true := by
  induction m with
  | nil => by_cases hv : v = unlistedByte <;> simp [Memory.write, Memory.below, hv, hi]
  | cons c t ih =>
    obtain ⟨a, u⟩ := c
    simp only [Memory.below, List.all_cons, Bool.and_eq_true, decide_eq_true_eq] at h ih
    simp only [Memory.write]
    split
    · split
      · simpa [Memory.below] using h
      · simp only [Memory.below, List.all_cons, Bool.and_eq_true, decide_eq_true_eq]
        exact ⟨hi, h⟩
    · split
      · split
        · exact h.2
        · simpa [Memory.below] using h
      · simpa [Memory.below] using And.intro h.1 (ih h.2)

/-- Equal contents are equal data. -/
theorem eq_of_read_eq_from {lo : Nat} {m m' : Memory} (h : m.wfFrom lo = true) (h' : m'.wfFrom lo = true)
    (hr : ∀ i, m.read i = m'.read i) : m = m' := by
  induction m generalizing lo m' with
  | nil =>
    cases m' with
    | nil => rfl
    | cons c t =>
      obtain ⟨a, v⟩ := c
      simp only [Memory.wfFrom, Bool.and_eq_true, decide_eq_true_eq, bne_iff_ne, ne_eq] at h'
      have := hr a
      simp only [Memory.read, if_pos] at this
      exact absurd this.symm h'.1.2
  | cons c t ih =>
    obtain ⟨a, v⟩ := c
    have hw := h
    simp only [Memory.wfFrom, Bool.and_eq_true, decide_eq_true_eq, bne_iff_ne, ne_eq] at h
    cases m' with
    | nil =>
      have := hr a
      simp only [Memory.read, if_pos] at this
      exact absurd this h.1.2
    | cons c' t' =>
      obtain ⟨a', v'⟩ := c'
      have hw' := h'
      simp only [Memory.wfFrom, Bool.and_eq_true, decide_eq_true_eq, bne_iff_ne, ne_eq] at h'
      have haa : a = a' := by
        rcases Nat.lt_trichotomy a a' with hlt | heq | hgt
        · have := hr a
          rw [read_of_lt (lo := a') (m := (a', v') :: t') (by simp [Memory.wfFrom, h'.1.2, h'.2]) hlt] at this
          simp only [Memory.read, if_pos] at this
          exact absurd this h.1.2
        · exact heq
        · have := hr a'
          rw [read_of_lt (lo := a) (m := (a, v) :: t) (by simp [Memory.wfFrom, h.1.2, h.2]) hgt] at this
          simp only [Memory.read, if_pos] at this
          exact absurd this.symm h'.1.2
      subst haa
      have hv : v = v' := by
        have := hr a
        simpa only [Memory.read, if_pos] using this
      subst hv
      have : t = t' := ih h.2 h'.2 fun i => by
        by_cases hi : i = a
        · subst hi
          rw [read_of_lt h.2 (by omega), read_of_lt h'.2 (by omega)]
        · have := hr i
          simpa only [Memory.read, if_neg hi] using this
      rw [this]

/-! ### Sequences of bytes -/

theorem writeBytes_wf {m : Memory} (h : m.wf = true) (i : Nat) (bs : List Byte) : (m.writeBytes i bs).wf = true := by
  induction bs generalizing m i with
  | nil => exact h
  | cons b bs ih => exact ih (write_wf h i b) (i + 1)

theorem writeBytes_below {m : Memory} {n : Nat} (h : m.below n = true) {i : Nat} {bs : List Byte}
    (hi : i + bs.length ≤ n) : (m.writeBytes i bs).below n = true := by
  induction bs generalizing m i with
  | nil => exact h
  | cons b bs ih =>
    simp only [List.length_cons] at hi
    exact ih (write_below h (by omega) b) (by omega)

/-- Bytes written leave every offset outside them alone. -/
theorem read_writeBytes_out (m : Memory) (i : Nat) (bs : List Byte) {a : Nat} (ha : a < i ∨ i + bs.length ≤ a) :
    (m.writeBytes i bs).read a = m.read a := by
  induction bs generalizing m i with
  | nil => rfl
  | cons b bs ih =>
    simp only [List.length_cons] at ha
    rw [Memory.writeBytes, ih (m.write i b) (i + 1) (by omega), read_write_ne m (by omega)]

/-- Reading where bytes were written gives them. -/
theorem read_writeBytes_in {m : Memory} (h : m.wf = true) (i : Nat) (bs : List Byte) {k : Nat} (hk : k < bs.length) :
    (m.writeBytes i bs).read (i + k) = bs[k] := by
  induction bs generalizing m i k with
  | nil => simp at hk
  | cons b bs ih =>
    rw [Memory.writeBytes]
    cases k with
    | zero => rw [read_writeBytes_out _ _ _ (by omega)]; exact read_write_same h i b
    | succ k =>
      simp only [List.length_cons] at hk
      have := ih (write_wf h i b) (i + 1) (k := k) (by omega)
      simpa [Nat.add_assoc, Nat.add_comm 1 k] using this

@[simp] theorem readBytes_length (m : Memory) (i n : Nat) : (m.readBytes i n).length = n := by
  induction n generalizing i with
  | zero => rfl
  | succ n ih => simp [Memory.readBytes, ih]

theorem readBytes_getElem (m : Memory) (i n k : Nat) (hk : k < (m.readBytes i n).length) :
    (m.readBytes i n)[k] = m.read (i + k) := by
  induction n generalizing i k with
  | zero => simp at hk
  | succ n ih =>
    cases k with
    | zero => rfl
    | succ k =>
      simp only [Memory.readBytes, List.getElem_cons_succ]
      rw [ih (i + 1) k]
      congr 1
      omega

theorem readBytes_eq_map (m : Memory) (i n : Nat) : m.readBytes i n = (List.range n).map fun k => m.read (i + k) := by
  apply List.ext_getElem
  · simp
  · intro k h1 h2
    simp [readBytes_getElem]

theorem readBytes_add (m : Memory) (i n k : Nat) : m.readBytes i (n + k) = m.readBytes i n ++ m.readBytes (i + n) k := by
  induction n generalizing i with
  | zero => simp [Memory.readBytes]
  | succ n ih =>
    rw [Nat.succ_add, Memory.readBytes, Memory.readBytes, ih]
    simp [Nat.add_comm, Nat.add_left_comm]

/-- Reading back exactly what was written. -/
theorem readBytes_writeBytes {m : Memory} (h : m.wf = true) (i : Nat) (bs : List Byte) :
    (m.writeBytes i bs).readBytes i bs.length = bs := by
  apply List.ext_getElem
  · simp
  · intro k h1 h2
    rw [readBytes_getElem, read_writeBytes_in h i bs h2]

theorem readBytes_congr {m m' : Memory} {i n : Nat} (h : ∀ a, i ≤ a → a < i + n → m.read a = m'.read a) :
    m.readBytes i n = m'.readBytes i n := by
  apply List.ext_getElem
  · simp
  · intro k h1 h2
    rw [readBytes_getElem, readBytes_getElem]
    simp only [readBytes_length] at h1
    exact h _ (by omega) (by omega)

end Sys2Proof.Machine
end

