-- ==== Sys2Proof/Laws/Ops.lean ====
section
/-! SUPPORT. One lemma per shared operation that says once what it can do; later proofs cite it instead of unfolding. -/

namespace Sys2Proof.Machine

@[simp] theorem portFree_false (s : State) : s.portFree false = true := rfl

theorem portFree_true (s : State) : s.portFree true = true ↔ s.busy s.bound = false := by simp [State.portFree]

/-- An operation ends at its own result when its port is free, and is refused otherwise. -/
theorem onPort_eq (bufp : Bool) (s a : State) :
    onPort bufp s a = if s.portFree bufp then .next a else .refused .bufferInFlight := by
  cases h : bufp && s.busy s.bound <;> simp [onPort, State.portFree, h]

theorem onPort_next {bufp : Bool} {s a t : State} : onPort bufp s a = .next t ↔ s.portFree bufp = true ∧ t = a := by
  rw [onPort_eq]
  cases s.portFree bufp <;> simp [eq_comm]

theorem onPort_of_free {bufp : Bool} {s a : State} (h : s.portFree bufp = true) : onPort bufp s a = .next a :=
  onPort_next.2 ⟨h, rfl⟩

/-- An operation on its port is refused only because its buffer has a transfer in flight, and never faults. -/
theorem onPort_refused {bufp : Bool} {s a : State} {r : Refusal} (h : onPort bufp s a = .refused r) :
    s.busy s.bound = true ∧ r = .bufferInFlight := by
  unfold onPort at h
  split at h
  · rename_i hb
    cases h
    exact ⟨((Bool.and_eq_true _ _).mp hb).2, rfl⟩
  · cases h

theorem onPort_not_fault {bufp : Bool} {s a : State} {r : Fault} : onPort bufp s a ≠ .fault r := by
  unfold onPort
  split <;> simp

/-- R104's routine either writes nothing and answers 0, or emits the Config-Set frame. -/
theorem prepareConfigSet_cases (bufp : Bool) (key : Word) (valp : Bool) (val : Word) (w : Nat) (s : State) :
    ((bufp = false ∨ valp = false ∨ 4 < w) ∧ prepareConfigSet bufp key valp val w s = s.respond (.size 0)) ∨
    (bufp = true ∧ valp = true ∧ w ≤ 4 ∧
      prepareConfigSet bufp key valp val w s = s.emit (configSetFrame s.cfg key val w)) := by
  by_cases h : bufp = false ∨ valp = false ∨ s.cfg.maxValueWidth.val < w
  · exact .inl ⟨by simpa using h, if_pos h⟩
  · have h' := h
    simp only [not_or, Bool.not_eq_false, Nat.not_lt, Fixed.val_eq] at h'
    exact .inr ⟨h'.1, h'.2.1, h'.2.2, if_neg h⟩

@[simp] theorem commandFrame_length (c : Config) (cls id : Byte) : (commandFrame c cls id).length = 8 := by simp [commandFrame]

/-- A Config-Set frame is `16 + w` bytes (R73). -/
@[simp] theorem configSetFrame_length (c : Config) (key val : Word) (w : Nat) :
    (configSetFrame c key val w).length = 16 + w := by
  simp only [configSetFrame, frame_length, valsetPayload_length, bytesLE_length]
  omega

/-- A receive stores its bytes exactly when the transport may. -/
theorem receiveBytes_next {bytes : List Byte} {s t : State} : receiveBytes bytes s = .next t ↔
    s.accepts bytes.length = true ∧ t = s.received bytes := by
  have e : s.dev.rxAwaited.any (fun n => n != bytes.length) = !s.dev.rxAwaited.all (fun n => n == bytes.length) := by
    cases s.dev.rxAwaited <;> simp [bne]
  unfold receiveBytes
  rw [e]
  simp only [State.accepts, Bool.and_eq_true, decide_eq_true_eq]
  cases s.dev.rxAwaited.all (fun n => n == bytes.length)
  · simp
  · by_cases hc : s.cfg.bufferCapacity < bytes.length
    · simp [hc, Nat.not_le.2 hc]
    · simp [Nat.le_of_not_lt hc, hc, eq_comm]

/-- The three ends of a receive. -/
theorem receiveBytes_cases (bytes : List Byte) (s : State) :
    (s.accepts bytes.length = true ∧ receiveBytes bytes s = .next (s.received bytes)) ∨
    ((∃ n, s.dev.rxAwaited = some n ∧ n ≠ bytes.length) ∧ receiveBytes bytes s = .refused .transferLengthMismatch) ∨
    (s.cfg.bufferCapacity < bytes.length ∧ receiveBytes bytes s = .fault .offsetOutsideBuffer) := by
  by_cases ha : s.accepts bytes.length = true
  · exact .inl ⟨ha, receiveBytes_next.2 ⟨ha, rfl⟩⟩
  · right
    by_cases hm : s.dev.rxAwaited.any (fun n => n != bytes.length) = true
    · refine .inl ⟨?_, if_pos hm⟩
      cases h : s.dev.rxAwaited with
      | none => simp [h] at hm
      | some n => exact ⟨n, rfl, by simpa [h] using hm⟩
    · have hc : s.cfg.bufferCapacity < bytes.length := by
        refine Nat.lt_of_not_le fun hc => ha ?_
        cases h : s.dev.rxAwaited <;> simp_all [State.accepts]
      exact .inr ⟨hc, by rw [receiveBytes, if_neg hm, if_pos hc]⟩

/-- CKSUM answers exactly within its contract (R121). -/
theorem execCksum_next {bufp : Bool} {ofs count : Half} {s t : State} : execCksum bufp ofs count s = .next t ↔
    bufp = true ∧ ofs.toNat + count.toNat ≤ s.cfg.bufferCapacity ∧ s.portFree bufp = true ∧
    t = s.respond (.checksum (fletcher8 (s.buf.readBytes ofs.toNat count.toNat)).1
      (fletcher8 (s.buf.readBytes ofs.toNat count.toNat)).2) := by
  unfold execCksum
  cases bufp
  · simp
  · by_cases h : s.cfg.bufferCapacity < ofs.toNat + count.toNat
    · simp [h, Nat.not_le.2 h]
    · simp only [Bool.true_eq_false, if_false, if_neg h, onPort_next]
      simp [Nat.le_of_not_lt h]

/-! ### What each operation answers, its port free -/

theorem exec_prepcmd_next {bufp : Bool} {cls id : Byte} {s t : State} : exec (.prepcmd bufp cls id) s = .next t ↔
    s.portFree bufp = true ∧ t = if bufp then s.emit (commandFrame s.cfg cls id) else s.respond (.size 0) := onPort_next

theorem exec_prepcfg_next {bufp : Bool} {key : Word} {valp : Bool} {val : Word} {vw : Byte} {s t : State} :
    exec (.prepcfg bufp key valp val vw) s = .next t ↔
    s.portFree bufp = true ∧ t = prepareConfigSet bufp key valp val vw.toNat s := onPort_next

theorem exec_prepcfgU1_next {bufp : Bool} {key : Word} {val : Byte} {s t : State} :
    exec (.prepcfgU1 bufp key val) s = .next t ↔
    s.portFree bufp = true ∧ t = prepareConfigSet bufp key true (val.setWidth 32) 1 s := onPort_next

theorem exec_prepcfgU2_next {bufp : Bool} {key : Word} {val : Half} {s t : State} :
    exec (.prepcfgU2 bufp key val) s = .next t ↔
    s.portFree bufp = true ∧ t = prepareConfigSet bufp key true (val.setWidth 32) 2 s := onPort_next

theorem exec_prepcfgU4_next {bufp : Bool} {key val : Word} {s t : State} :
    exec (.prepcfgU4 bufp key val) s = .next t ↔
    s.portFree bufp = true ∧ t = prepareConfigSet bufp key true val 4 s := onPort_next

theorem exec_valpkt_next {bufp : Bool} {size : Half} {cls id : Byte} {s t : State} :
    exec (.valpkt bufp size cls id) s = .next t ↔
    s.portFree bufp = true ∧ t = s.respond (.status (validatePacket s.cfg bufp s.buf size cls id)) := onPort_next

theorem exec_valack_next {bufp : Bool} {size : Half} {cls id : Byte} {s t : State} :
    exec (.valack bufp size cls id) s = .next t ↔
    s.portFree bufp = true ∧ t = s.respond (.status (validateAck s.cfg bufp s.buf size cls id)) := onPort_next

/-! ### The validator -/

/-- The five structural checks of R130 together: steps 2 to 6 pass. -/
def structureOk (c : Config) (buf : Memory) (size : Half) (cls id : Byte) : Prop :=
  8 ≤ size.toNat ∧ buf.read 0 = 0xB5 ∧ buf.read 1 = 0x62 ∧ buf.read 2 = cls ∧ buf.read 3 = id ∧
    declaredLength buf ≤ c.maxPayload ∧ size.toNat = 8 + declaredLength buf

/-- Step 7 of R130 passes. -/
def checksumOk (buf : Memory) : Prop :=
  (buf.read (6 + declaredLength buf), buf.read (7 + declaredLength buf)) =
    fletcher8 (buf.readBytes 2 (declaredLength buf + 4))

/-- The verdict in three cases (R130, R131): structure first, then the checksum. -/
theorem validatePacket_cases (c : Config) (buf : Memory) (size : Half) (cls id : Byte) :
    (¬ structureOk c buf size cls id ∧ validatePacket c true buf size cls id = .error) ∨
    (structureOk c buf size cls id ∧ ¬ checksumOk buf ∧ validatePacket c true buf size cls id = .checksumError) ∨
    (structureOk c buf size cls id ∧ checksumOk buf ∧ validatePacket c true buf size cls id = .ok) := by
  by_cases hs : structureOk c buf size cls id
  · obtain ⟨h2, h3, h3', h4, h4', h5, h6⟩ := hs
    refine .inr ?_
    have e : validatePacket c true buf size cls id =
        if (buf.read (6 + declaredLength buf), buf.read (7 + declaredLength buf)) ≠
          fletcher8 (buf.readBytes 2 (declaredLength buf + 4)) then .checksumError else .ok := by
      unfold validatePacket
      rw [if_neg (by simp), if_neg (by simp only [overhead_eq]; omega), if_neg (by simp [h3, h3']),
        if_neg (by simp [h4, h4']), if_neg (by omega), if_neg (by simp only [Fixed.val_eq]; omega)]
    by_cases hc : checksumOk buf
    · exact .inr ⟨⟨h2, h3, h3', h4, h4', h5, h6⟩, hc, by rw [e]; exact if_neg (not_not_intro hc)⟩
    · exact .inl ⟨⟨h2, h3, h3', h4, h4', h5, h6⟩, hc, by rw [e]; exact if_pos hc⟩
  · refine .inl ⟨hs, ?_⟩
    unfold validatePacket
    rw [if_neg (by simp)]
    split
    · rfl
    · split
      · rfl
      · split
        · rfl
        · split
          · rfl
          · split
            · rfl
            · exfalso
              rename_i h2 h3 h4 h5 h6
              simp only [overhead_eq, Fixed.val_eq] at h2 h3 h6
              simp only [ne_eq, not_or, Classical.not_not] at h3 h4 h6
              exact hs ⟨by omega, h3.1, h3.2, h4.1, h4.2, by omega, by omega⟩

@[simp] theorem validatePacket_absent (c : Config) (buf : Memory) (size : Half) (cls id : Byte) :
    validatePacket c false buf size cls id = .invalidParam := rfl

theorem validatePacket_eq_ok {c : Config} {bufp : Bool} {buf : Memory} {size : Half} {cls id : Byte} :
    validatePacket c bufp buf size cls id = .ok ↔ bufp = true ∧ structureOk c buf size cls id ∧ checksumOk buf := by
  cases bufp
  · simp
  · rcases validatePacket_cases c buf size cls id with ⟨h, e⟩ | ⟨h, h', e⟩ | ⟨h, h', e⟩ <;> simp [e, h] <;> assumption

end Sys2Proof.Machine
end

