-- ==== Sys2Proof/Laws/Frames.lean ====
section
/-! SUPPORT. Frames in a buffer: what an emitted frame reads as, and what the validator's checks say of a buffer that
holds a frame. -/

namespace Sys2Proof.Machine

/-- A frame that carries its own checksum, laid out (R14, R60). -/
theorem frame_eq (c : Config) (cls id : Byte) (p : List Byte) : frame c cls id p =
    0xB5 :: 0x62 :: cls :: id :: BitVec.ofNat 8 p.length :: BitVec.ofNat 8 (p.length / 256) ::
      (p ++ [(regionChecksum cls id p).1, (regionChecksum cls id p).2]) := frameWith_eq _ _ _ _ _ _

/-- The checksummed region of a frame: offsets 2 to 5 + length (R63). -/
theorem frameWith_region (c : Config) (cls id : Byte) (p : List Byte) (a b : Byte) :
    ((frameWith c cls id p a b).drop 2).take (p.length + 4) = headerBody cls id p.length ++ p := by
  have h : (headerBody cls id p.length ++ p).length = p.length + 4 := by simp [Nat.add_comm]
  simp only [frameWith, List.drop_succ_cons, List.drop_zero]
  rw [← h, List.take_left]

/-- The two checksum bytes of a frame, at offsets 6 + length and 7 + length (R60). -/
theorem frameWith_ckA (c : Config) (cls id : Byte) (p : List Byte) (a b : Byte) : (frameWith c cls id p a b)[6 + p.length]? = some a := by
  rw [frameWith_eq, show 6 + p.length = p.length + 6 by omega]
  simp only [List.getElem?_cons_succ]
  simp

theorem frameWith_ckB (c : Config) (cls id : Byte) (p : List Byte) (a b : Byte) : (frameWith c cls id p a b)[7 + p.length]? = some b := by
  rw [frameWith_eq, show 7 + p.length = p.length + 1 + 6 by omega]
  simp only [List.getElem?_cons_succ]
  simp

/-- The Config-Set frame PREPCFG writes, laid out (R104). -/
theorem configSetFrame_eq (c : Config) (key val : Word) (w : Nat) : configSetFrame c key val w =
    0xB5 :: 0x62 :: c.clsCfg :: c.idCfgValset :: BitVec.ofNat 8 (8 + w) :: BitVec.ofNat 8 ((8 + w) / 256) ::
      0x00 :: c.layerMask :: 0 :: 0 :: (bytesLE 4 key.toNat ++ (bytesLE w val.toNat ++
        [(regionChecksum c.clsCfg c.idCfgValset (valsetPayload c key (bytesLE w val.toNat))).1,
          (regionChecksum c.clsCfg c.idCfgValset (valsetPayload c key (bytesLE w val.toNat))).2])) := by
  have h : (valsetPayload c key (bytesLE w val.toNat)).length = 8 + w := by simp; omega
  rw [configSetFrame, frame_eq, h]
  simp [valsetPayload, valsetHead]

/-! ### Reading what was written at offset 0 -/

theorem readBytes_written {m : Memory} (h : m.wf = true) (bs : List Byte) (a n : Nat) (hn : a + n ≤ bs.length) :
    (m.writeBytes 0 bs).readBytes a n = (bs.drop a).take n := by
  apply List.ext_getElem
  · simp; omega
  · intro k h1 h2
    have hk : a + k < bs.length := by simp at h1; omega
    have := read_writeBytes_in h 0 bs hk
    rw [readBytes_getElem]
    simpa using this

theorem read_written {m : Memory} (h : m.wf = true) {bs : List Byte} {k : Nat} {v : Byte} (hv : bs[k]? = some v) :
    (m.writeBytes 0 bs).read k = v := by
  obtain ⟨hk, rfl⟩ := List.getElem?_eq_some_iff.1 hv
  simpa using read_writeBytes_in h 0 bs hk

/-- A sub-range of a range that has been read. -/
theorem readBytes_slice (m : Memory) (i n a k : Nat) (h : a + k ≤ n) :
    ((m.readBytes i n).drop a).take k = m.readBytes (i + a) k := by
  apply List.ext_getElem
  · simp; omega
  · intro j h1 h2
    simp only [List.getElem_take, List.getElem_drop, readBytes_getElem, Nat.add_assoc]

/-! ### The validator on a buffer that holds a frame -/

/-- A byte of a frame the buffer holds. -/
theorem read_of_holds {m : Memory} {bs : List Byte} {n : Nat} (h : m.readBytes 0 n = bs) {k : Nat} (hk : k < n) :
    bs[k]? = some (m.read k) := by
  subst h
  rw [List.getElem?_eq_getElem (by simpa using hk), readBytes_getElem]
  simp

/-- The structural checks pass exactly when the declared bytes are a frame of that class and id, with whatever checksum
bytes (R132). -/
theorem structureOk_iff (c : Config) (m : Memory) (size : Half) (cls id : Byte) : structureOk c m size cls id ↔
    ∃ (p : List Byte) (a b : Byte), p.length ≤ c.maxPayload ∧ size.toNat = 8 + p.length ∧
      m.readBytes 0 size.toNat = frameWith c cls id p a b := by
  have hc := bufferCapacity_le c
  have hc2 := maxPayload_eq c
  constructor
  · rintro ⟨h8, h0, h1, h2, h3, h5, h6⟩
    refine ⟨m.readBytes 6 (declaredLength m), m.read (6 + declaredLength m), m.read (7 + declaredLength m), by simpa,
      by simpa, ?_⟩
    have hb := bytesLE_le16 (m.read 4) (m.read 5)
    simp only [bytesLE, List.cons.injEq, and_true] at hb
    change BitVec.ofNat 8 (declaredLength m) = _ ∧ BitVec.ofNat 8 (declaredLength m / 256) = _ at hb
    rw [h6, frameWith_eq, show 8 + declaredLength m = 6 + (declaredLength m + 2) by omega, readBytes_add, readBytes_add,
      readBytes_length, hb.1, hb.2]
    simp [Memory.readBytes, h0, h1, h2, h3]
    rw [show 6 + declaredLength m + 1 = 7 + declaredLength m by omega]
  · rintro ⟨p, a, b, hp, hs, h⟩
    have g : ∀ k, k < size.toNat → (frameWith c cls id p a b)[k]? = some (m.read k) := fun k hk => read_of_holds h hk
    rw [frameWith_eq] at g
    have r0 := g 0 (by omega)
    have r1 := g 1 (by omega)
    have r2 := g 2 (by omega)
    have r3 := g 3 (by omega)
    have r4 := g 4 (by omega)
    have r5 := g 5 (by omega)
    simp only [List.getElem?_cons_succ, List.getElem?_cons_zero, Option.some.injEq] at r0 r1 r2 r3 r4 r5
    have hd : declaredLength m = p.length := by
      rw [declaredLength, ← r4, ← r5]
      exact le16_bytes _ (by omega)
    exact ⟨by omega, r0.symm, r1.symm, r2.symm, r3.symm, by omega, by omega⟩

/-- On a frame the checksum check asks for the frame's own checksum (R123, R130). -/
theorem checksumOk_iff {c : Config} {m : Memory} {size : Half} {cls id : Byte} {p : List Byte} {a b : Byte}
    (hp : p.length ≤ c.maxPayload) (hs : size.toNat = 8 + p.length)
    (h : m.readBytes 0 size.toNat = frameWith c cls id p a b) : checksumOk m ↔ (a, b) = regionChecksum cls id p := by
  have hst := (structureOk_iff c m size cls id).2 ⟨p, a, b, hp, hs, h⟩
  have hd : declaredLength m = p.length := by
    have := hst.2.2.2.2.2.2
    omega
  have ga := read_of_holds h (k := 6 + p.length) (by omega)
  have gb := read_of_holds h (k := 7 + p.length) (by omega)
  rw [frameWith_ckA] at ga
  rw [frameWith_ckB] at gb
  have hr : m.readBytes 2 (p.length + 4) = headerBody cls id p.length ++ p := by
    rw [← frameWith_region c cls id p a b, ← h, readBytes_slice _ _ _ _ _ (by omega)]
  rw [checksumOk, hd, ← Option.some.inj ga, ← Option.some.inj gb, hr, regionChecksum]

/-- The verdict on a buffer that holds a frame of the class and id asked for. -/
theorem validatePacket_frame {c : Config} {m : Memory} {size : Half} {cls id : Byte} {p : List Byte} {a b : Byte}
    (hp : p.length ≤ c.maxPayload) (hs : size.toNat = 8 + p.length)
    (h : m.readBytes 0 size.toNat = frameWith c cls id p a b) : validatePacket c true m size cls id =
      if (a, b) = regionChecksum cls id p then .ok else .checksumError := by
  have hst := (structureOk_iff c m size cls id).2 ⟨p, a, b, hp, hs, h⟩
  have hck := checksumOk_iff hp hs h
  rcases validatePacket_cases c m size cls id with ⟨h1, -⟩ | ⟨-, h2, e⟩ | ⟨-, h2, e⟩
  · exact absurd hst h1
  · rw [e, if_neg (hck.not.1 h2)]
  · rw [e, if_pos (hck.1 h2)]

/-- VALACK on ten bytes that are an Ack (R135). -/
theorem validateAck_ack {c : Config} (hc : c.wf = true) {m : Memory} {x y a b cls id : Byte}
    (h : m.readBytes 0 10 = frameWith c c.clsAck c.idAckAck [x, y] a b) : validateAck c true m 10 cls id =
      if (a, b) ≠ regionChecksum c.clsAck c.idAckAck [x, y] then .checksumError
      else if (x, y) = (cls, id) then .ok else .error := by
  have hg := bufferCapacity_ge c
  have hm := maxPayload_eq c
  have hin := validatePacket_frame (c := c) (size := 10) (p := [x, y]) (by simp; omega) rfl h
  have g3 := read_of_holds h (k := 3) (by decide)
  have g6 := read_of_holds h (k := 6) (by decide)
  have g7 := read_of_holds h (k := 7) (by decide)
  rw [frameWith_eq] at g3 g6 g7
  simp at g3 g6 g7
  have hne : c.idAckNak ≠ c.idAckAck := by simpa [Config.wf] using hc
  rw [validateAck]
  simp only [hin]
  by_cases hk : (a, b) = regionChecksum c.clsAck c.idAckAck [x, y]
  · by_cases h1 : x = cls <;> by_cases h2 : y = id <;> simp [hk, ← g6, ← g7, h1, h2]
  · simp [hk, ← g3, hne.symm]

/-- VALACK on ten bytes that are a Nack: Error, whatever their checksum (R135, R177). -/
theorem validateAck_nak {c : Config} (hc : c.wf = true) {m : Memory} {x y a b cls id : Byte}
    (h : m.readBytes 0 10 = frameWith c c.clsAck c.idAckNak [x, y] a b) : validateAck c true m 10 cls id = .error := by
  have g3 := read_of_holds h (k := 3) (by decide)
  rw [frameWith_eq] at g3
  simp at g3
  have hne : c.idAckNak ≠ c.idAckAck := by simpa [Config.wf] using hc
  have hin : validatePacket c true m 10 c.clsAck c.idAckAck ≠ .ok := fun h =>
    hne (g3.trans (validatePacket_eq_ok.1 h).2.1.2.2.2.2.1)
  rw [validateAck]
  simp only []
  rw [if_pos hin, if_pos ⟨by trivial, by rw [overhead_eq]; decide, g3.symm⟩]

end Sys2Proof.Machine
end

