-- ==== Sys2Proof/Laws/Driver.lean ====
section
/-! SUPPORT. What one round of the driver's `init` can do, said once. -/

namespace Sys2Proof.Machine

/-- A width is one of 1, 2 and 4 (R67), so PREPCFG never turns it away. -/
theorem width_le (w : ValueWidth) : 1 ≤ w.bytes ∧ w.bytes ≤ 4 := by cases w <;> decide

@[simp] theorem itemLength_mod (w : ValueWidth) : (16 + w.bytes) % 65536 = 16 + w.bytes := by cases w <;> decide

@[simp] theorem ubxWidth_bytes (c : Config) : c.itemUbx.width.bytes = 1 := by simp [Config.itemUbx, ValueWidth.bytes]

/-- The config-set frame of a catalogue key. -/
def itemFrame (c : Config) (item : ConfigItem) (val : Word) : List Byte :=
  configSetFrame c item.key val item.width.bytes

@[simp] theorem itemFrame_length (c : Config) (item : ConfigItem) (val : Word) :
    (itemFrame c item val).length = 16 + item.width.bytes := by simp [itemFrame]

/-- Only the low bytes of a value are written (R68). -/
theorem bytesLE_mod (w v : Nat) : bytesLE w (v % 256 ^ w) = bytesLE w v := by
  have h := bytesLE_natLE (bytesLE w v)
  rwa [bytesLE_length, natLE_bytesLE] at h

/-- The wrapper of a key's width writes its config-set frame (R67, R83, R105 to R107). -/
theorem exec_itemRequest {item : ConfigItem} {val : Word} {s : State} (h : s.portFree true = true) :
    exec (itemRequest item val) s = .next (s.emit (itemFrame s.cfg item val)) := by
  obtain ⟨key, w⟩ := item
  cases w
  · refine exec_prepcfgU1_next.2 ⟨h, ?_⟩
    have e := bytesLE_mod 1 val.toNat
    simp [prepareConfigSet, itemFrame, configSetFrame, ValueWidth.bytes] at e ⊢
    rw [Nat.mod_eq_of_lt (by omega : val.toNat % 256 < 4294967296), e]
  · refine exec_prepcfgU2_next.2 ⟨h, ?_⟩
    have e := bytesLE_mod 2 val.toNat
    simp [prepareConfigSet, itemFrame, configSetFrame, ValueWidth.bytes] at e ⊢
    rw [Nat.mod_eq_of_lt (by omega : val.toNat % 65536 < 4294967296), e]
  · refine exec_prepcfgU4_next.2 ⟨h, ?_⟩
    simp [prepareConfigSet, itemFrame, ValueWidth.bytes]

/-- What a round of `init` asks of the transport when it goes all its way, `tx` being the transmit buffer it sends `n` bytes
from (R152, R161). -/
def roundCalls (s : State) (n : Nat) (tx : Memory) : List TransportCall :=
  [.transmit s.dev.transport.address8 (tx.readBytes 0 n) s.dev.transport.callTimeout, .delay s.cfg.settleDelayMs,
    .receive s.dev.transport.address8 10 s.dev.transport.callTimeout]

/-- What a round leaves when it ends, whichever way: the config-set frame is in the transmit buffer, the first `n` of its
calls have been asked of the transport, some bytes `bs`, ten at the most, have come into the receive buffer, and nothing of
the rest of the record has moved. -/
structure RoundEffect (item : ConfigItem) (val : Word) (bs : List Byte) (n : Nat) (s u : State) : Prop where
  cfg : u.cfg = s.cfg
  agenda : u.agenda = s.agenda
  others : u.others = s.others
  calls : u.calls = s.calls ++ (roundCalls s (16 + item.width.bytes) u.tx).take n
  tx : u.tx = s.tx.writeBytes 0 (itemFrame s.cfg item val)
  rx : u.rx = s.rx.writeBytes 0 bs
  came : bs.length ≤ 10
  txLen : u.dev.txLen = BitVec.ofNat 16 (16 + item.width.bytes)
  rxLen : u.dev.rxLen = s.dev.rxLen ∨ u.dev.rxLen = BitVec.ofNat 16 bs.length
  awaited : u.dev.rxAwaited = s.dev.rxAwaited ∨ u.dev.rxAwaited = none
  initialized : u.dev.initialized = s.dev.initialized
  currentCommand : u.dev.currentCommand = s.dev.currentCommand
  transport : u.dev.transport = s.dev.transport
  txBusy : u.dev.txBusy = s.dev.txBusy

/-- The environment let the round succeed: everything ended well and VALACK accepts what came. -/
structure RoundAccepted (h : Handshake) (s : State) : Prop where
  sent : h.sent = .done
  settled : settles s.dev.transport.style h.settled = true
  got : h.got = .done
  length : h.ack.length = 10
  verdict : validateAck s.cfg true (s.rx.writeBytes 0 h.ack) 10 s.cfg.clsCfg s.cfg.idCfgValset = .ok

/-- What made a round fail, the status it fails with, and how many of its calls it had made: the transmit failed, the
settle delay was not over within its bound, the receive failed, or VALACK did not accept what came (R152, R153). -/
def RoundFailed (h : Handshake) (s : State) (st : Status) (n : Nat) : Prop :=
  (h.sent ≠ .done ∧ st = h.sent.status ∧ n = 1) ∨
  (h.sent = .done ∧ settles s.dev.transport.style h.settled = false ∧ st = .timeout ∧ n = 2) ∨
  (h.sent = .done ∧ settles s.dev.transport.style h.settled = true ∧ h.got ≠ .done ∧ st = h.got.status ∧ n = 3) ∨
  (h.sent = .done ∧ settles s.dev.transport.style h.settled = true ∧ h.got = .done ∧ h.ack.length = 10 ∧
    st = validateAck s.cfg true (s.rx.writeBytes 0 h.ack) 10 s.cfg.clsCfg s.cfg.idCfgValset ∧ n = 3)

theorem busStatus_ne_ok {r : BusResult} (h : r ≠ .done) : r.status ≠ .ok := by
  cases r
  · exact absurd rfl h
  · simp [BusResult.status]
  · simp [BusResult.status]

/-- The state after a round's encoder, its transmit length kept and its transmit asked. -/
def roundSent (item : ConfigItem) (val : Word) (s : State) : State :=
  (((s.bindTo .tx).emit (itemFrame s.cfg item val)).withTxLen (BitVec.ofNat 16 (16 + item.width.bytes))).asksTransmit

/-- The state after a round's settle delay, with the delay-done flag as it ends. -/
def roundSettled (item : ConfigItem) (val : Word) (b : Bool) (s : State) : State :=
  (roundSent item val s).asksDelay.withDelayDone b

theorem roundSent_effect (item : ConfigItem) (val : Word) (s : State) :
    RoundEffect item val [] 1 s (roundSent item val s) := by
  constructor <;> simp [roundSent, roundCalls, Memory.writeBytes, emit_tx (s.bindTo .tx) _ rfl,
    emit_tx_rx (s.bindTo .tx) _ rfl]

theorem roundSettled_effect (item : ConfigItem) (val : Word) (b : Bool) (s : State) :
    RoundEffect item val [] 2 s (roundSettled item val b s) := by
  have e := roundSent_effect item val s
  constructor
  case rxLen => simpa [roundSettled] using e.rxLen
  all_goals simp [roundSettled, roundCalls, e.cfg, e.agenda, e.others, e.calls, e.tx, e.rx, e.txLen,
    e.awaited, e.initialized, e.currentCommand, e.transport, e.txBusy]

/-- Once it has asked for its receive, a round has asked all it asks. -/
theorem roundReceiving_effect (item : ConfigItem) (val : Word) (s : State) :
    RoundEffect item val [] 3 s ((roundSettled item val true s).asksReceive 10) := by
  have e := roundSettled_effect item val true s
  constructor
  case rxLen => simpa using e.rxLen
  all_goals simp [roundCalls, e.cfg, e.agenda, e.others, e.calls, e.tx, e.rx, e.txLen,
    e.awaited, e.initialized, e.currentCommand, e.transport, e.txBusy]

/-- Of the record, a round that has come to its receive has moved the transmit length and the delay-done flag. -/
theorem roundReceiving_dev (item : ConfigItem) (val : Word) (s : State) :
    ((roundSettled item val true s).asksReceive 10).dev =
      { s.dev with txLen := BitVec.ofNat 16 (16 + item.width.bytes), delayDone := true } := by
  simp [roundSettled, roundSent]

/-- A round is its encoder, then the transmit, the settle delay, the receive and the verdict. -/
theorem handshakeRound_eq (item : ConfigItem) (val : Word) (h : Handshake) (s : State)
    (k : State → Host.Outcome State Fault Refusal) (hfree : s.dev.txBusy = false) :
    handshakeRound item val h s k =
      if h.sent ≠ .done then .next ((roundSent item val s).returnStatus h.sent.status)
      else if settles s.dev.transport.style h.settled = false then
        .next ((roundSettled item val false s).returnStatus .timeout)
      else
        receiveExactly 10 h.got h.ack ((roundSettled item val true s).asksReceive 10) fun s3 =>
        andThen (execValack true 10 s3.cfg.clsCfg s3.cfg.idCfgValset (s3.bindTo .rx)) fun s4 =>
        onAck s4 k := by
  have e := exec_itemRequest (item := item) (val := val) (s := s.bindTo .tx) (by simp [State.portFree, hfree])
  rw [handshakeRound, e, andThen_next]
  simp only [onSize, emit_resp, itemFrame_length, ackSize_eq]
  simp [roundSettled, roundSent]

theorem handshakeRound_busy (item : ConfigItem) (val : Word) (h : Handshake) (s : State)
    (k : State → Host.Outcome State Fault Refusal) (hbusy : s.dev.txBusy = true) :
    handshakeRound item val h s k = .refused .bufferInFlight := by
  have e : exec (itemRequest item val) (s.bindTo .tx) = .refused .bufferInFlight := by
    obtain ⟨k, w⟩ := item
    cases w <;> simp [itemRequest, exec, execPrepcfgU1, execPrepcfgU2, execPrepcfgU4, onPort_eq, State.portFree, hbusy]
  rw [handshakeRound, e, andThen_refused]

/-- A receive that completes: the bytes are as many as declared and what follows goes on from there, or it failed. -/
theorem receiveExactly_next {n : Nat} {r : BusResult} {bytes : List Byte} {s t : State}
    {k : State → Host.Outcome State Fault Refusal} (h : receiveExactly n r bytes s k = .next t) :
    (r = .done ∧ bytes.length = n ∧ s.accepts bytes.length = true ∧ k (s.received bytes) = .next t) ∨
    (r ≠ .done ∧ t = receiveFailed n r bytes s) := by
  unfold receiveExactly at h
  split at h
  · split at h
    · cases h
    · rename_i hl
      obtain ⟨u, h1, h2⟩ := andThen_eq_next h
      obtain ⟨ha, rfl⟩ := receiveBytes_next.1 h1
      exact .inl ⟨rfl, Classical.not_not.1 hl, ha, h2⟩
  · cases h
    exact .inr ⟨by simp, rfl⟩
  · cases h
    exact .inr ⟨by simp, rfl⟩

/-- A round that completes either returns a status that is not Ok to the caller, or everything in it went well and what
follows goes on. -/
theorem handshakeRound_next {item : ConfigItem} {val : Word} {h : Handshake} {s t : State}
    {k : State → Host.Outcome State Fault Refusal} (ht : handshakeRound item val h s k = .next t) :
    (∃ u st bs n, st ≠ .ok ∧ t = u.returnStatus st ∧ RoundFailed h s st n ∧ RoundEffect item val bs n s u) ∨
    (∃ u, k u = .next t ∧ RoundEffect item val h.ack 3 s u ∧ RoundAccepted h s) := by
  cases hb : s.dev.txBusy with
  | true => rw [handshakeRound_busy _ _ _ _ _ hb] at ht; cases ht
  | false =>
    rw [handshakeRound_eq _ _ _ _ _ hb] at ht
    split at ht
    · rename_i hs
      cases ht
      exact .inl ⟨_, _, _, 1, busStatus_ne_ok hs, rfl, .inl ⟨hs, rfl, rfl⟩, roundSent_effect item val s⟩
    rename_i hs
    have hs := Classical.not_not.1 hs
    split at ht
    · rename_i hd
      cases ht
      exact .inl ⟨_, _, _, 2, by simp, rfl, .inr (.inl ⟨hs, hd, rfl, rfl⟩), roundSettled_effect item val false s⟩
    rename_i hd
    have hd : settles s.dev.transport.style h.settled = true := by simpa using hd
    have e := roundReceiving_effect item val s
    generalize (roundSettled item val true s).asksReceive 10 = r at ht e
    have came : ∀ bs : List Byte, bs.length ≤ 10 → r.rx.writeBytes 0 bs = s.rx.writeBytes 0 bs := fun bs _ => by
      simpa [Memory.writeBytes] using congrArg (Memory.writeBytes · 0 bs) e.rx
    rcases receiveExactly_next ht with ⟨hg, hl, -, ht⟩ | ⟨hg, rfl⟩
    · obtain ⟨s4, h4, ht⟩ := andThen_eq_next ht
      obtain ⟨-, rfl⟩ := onPort_next.1 h4
      have eff : ∀ resp : Response, RoundEffect item val h.ack 3 s (((r.received h.ack).bindTo .rx).respond resp) :=
        fun resp => { e with
          rx := came _ (by omega)
          came := by omega
          rxLen := .inr rfl
          awaited := .inr rfl }
      have verdict : ∀ {st : Status}, some (Response.status (validateAck ((r.received h.ack).bindTo .rx).cfg true
          ((r.received h.ack).bindTo .rx).buf 10 (r.received h.ack).cfg.clsCfg (r.received h.ack).cfg.idCfgValset)) =
            some (.status st) →
          validateAck s.cfg true (s.rx.writeBytes 0 h.ack) 10 s.cfg.clsCfg s.cfg.idCfgValset = st := fun heq => by
        have hv := Response.status.inj (Option.some.inj heq)
        simpa [came h.ack (by omega), e.cfg] using hv
      simp only [onAck, respond_resp] at ht
      split at ht
      · rename_i heq
        exact .inr ⟨_, ht, eff _, hs, hd, hg, hl, verdict heq⟩
      · rename_i heq
        cases ht
        refine .inl ⟨_, _, _, 3, fun hok => ?_, rfl, .inr (.inr (.inr ⟨hs, hd, hg, hl, (verdict heq).symm, rfl⟩)), eff _⟩
        simp_all
      all_goals cases ht
    · exact .inl ⟨r.received (h.ack.take 10), _, h.ack.take 10, 3, busStatus_ne_ok hg, rfl,
        .inr (.inr (.inl ⟨hs, hd, hg, rfl, rfl⟩)), { e with
          rx := came _ (by simp)
          came := by simp
          rxLen := .inr rfl
          awaited := .inr rfl }⟩

/-- A round whose transmit, delay and receive all end well and whose acknowledgment VALACK accepts goes on with what
follows it. -/
theorem handshakeRound_accepted {item : ConfigItem} {val : Word} {h : Handshake} {s : State}
    (k : State → Host.Outcome State Fault Refusal)
    (hb : s.dev.txBusy = false) (ha : s.dev.rxAwaited = none) (hs : h.sent = .done)
    (hd : settles s.dev.transport.style h.settled = true) (hg : h.got = .done) (hl : h.ack.length = 10) {st : Status}
    (hv : validateAck s.cfg true (s.rx.writeBytes 0 h.ack) 10 s.cfg.clsCfg s.cfg.idCfgValset = st) :
    ∃ u, handshakeRound item val h s k = onAck u k ∧ u.resp = some (.status st) ∧ u.bound = .rx ∧
      RoundEffect item val h.ack 3 s u ∧
      u.dev = { s.dev with
        txLen := BitVec.ofNat 16 (16 + item.width.bytes)
        delayDone := true
        rxLen := 10
        rxAwaited := none } := by
  have hcap := bufferCapacity_ge s.cfg
  rw [handshakeRound_eq _ _ _ _ _ hb, if_neg (by simp [hs]),
    if_neg (by simp [hd]), hg]
  have e := roundReceiving_effect item val s
  have hdev := roundReceiving_dev item val s
  generalize (roundSettled item val true s).asksReceive 10 = r at e hdev
  have hrx : r.rx = s.rx := by simpa [Memory.writeBytes] using e.rx
  have hacc : r.accepts h.ack.length = true := by
    simp [State.accepts, hdev, ha, hl, e.cfg]
    omega
  simp only [receiveExactly]
  rw [if_neg (not_not_intro hl), receiveBytes_next.2 ⟨hacc, rfl⟩, andThen_next]
  have he : execValack true 10 r.cfg.clsCfg r.cfg.idCfgValset ((r.received h.ack).bindTo .rx) =
      .next (((r.received h.ack).bindTo .rx).respond (.status st)) := by
    refine exec_valack_next.2 ⟨by simp [State.portFree], ?_⟩
    subst hv
    simp only [bindTo_cfg, bindTo_buf, buffer_rx, received_cfg, received_rx, e.cfg, hrx]
  simp only [received_cfg]
  rw [he, andThen_next]
  refine ⟨_, rfl, rfl, rfl, { e with
    rx := by simp [hrx]
    came := by omega
    rxLen := .inr rfl
    awaited := .inr rfl }, ?_⟩
  simp [hdev, hl]

/-- How `init` can end (R152, R153): the configuration is refused, or a round failed, or both rounds succeeded. -/
theorem driverInit_next {c : DriverConfig} {h1 h2 : Handshake} {s t : State} (h : driverInit c h1 h2 s = .next t) :
    (c.toTransport.complete = false ∧ t = (s.withInitialized false).returnStatus .invalidParam) ∨
    (c.toTransport.complete = true ∧
      ((∃ u st bs n, st ≠ Status.ok ∧ t = u.returnStatus st ∧ RoundFailed h1 (s.zeroed c.toTransport) st n ∧
        RoundEffect s.cfg.itemUbx 1 bs n (s.zeroed c.toTransport) u) ∨
      (∃ v u st bs n, st ≠ Status.ok ∧ t = u.returnStatus st ∧ RoundFailed h2 v st n ∧
        RoundEffect s.cfg.itemUbx 1 h1.ack 3 (s.zeroed c.toTransport) v ∧ RoundAccepted h1 (s.zeroed c.toTransport) ∧
        RoundEffect v.cfg.itemNmea 0 bs n v u) ∨
      (∃ v u, t = (u.withInitialized true).returnStatus .ok ∧
        RoundEffect s.cfg.itemUbx 1 h1.ack 3 (s.zeroed c.toTransport) v ∧ RoundAccepted h1 (s.zeroed c.toTransport) ∧
        RoundEffect v.cfg.itemNmea 0 h2.ack 3 v u ∧ RoundAccepted h2 v))) := by
  unfold driverInit at h
  split at h
  · rename_i hc
    cases h
    exact .inl ⟨hc, rfl⟩
  · rename_i hc
    refine .inr ⟨by simpa using hc, ?_⟩
    split at h
    · cases h
    · rcases handshakeRound_next h with ⟨u, st, bs, n, h1, h2, h3, h4⟩ | ⟨v, h', e1, a1⟩
      · exact .inl ⟨u, st, bs, n, h1, h2, h3, h4⟩
      · rcases handshakeRound_next h' with ⟨u, st, bs, n, h1, h2, h3, h4⟩ | ⟨u, h'', e2, a2⟩
        · exact .inr (.inl ⟨v, u, st, bs, n, h1, h2, h3, e1, a1, h4⟩)
        · cases h''
          exact .inr (.inr ⟨v, u, rfl, e1, a1, e2, a2⟩)

/-- How `command` can end (R154). -/
theorem driverCommand_next {c : CommandType} {r : BusResult} {s t : State} (h : driverCommand c r s = .next t) :
    ((s.dev.initialized = false ∨ c ≠ .readNavPvt) ∧ t = s.returnStatus .invalidParam) ∨
    (s.dev.initialized = true ∧ c = .readNavPvt ∧ s.dev.txBusy = false ∧
      t = (((((s.bindTo .tx).emit (commandFrame s.cfg s.cfg.clsNav s.cfg.idNavPvt)).withTxLen 8).withCommand
        .readNavPvt).asksTransmit.withTxBusy
          (if r = .done then (s.dev.transport.style == TransportStyle.eventDriven) else s.dev.txBusy)).returnStatus
            r.status) := by
  unfold driverCommand at h
  split at h
  · rename_i hc
    cases h
    exact .inl ⟨hc, rfl⟩
  · rename_i hc
    simp only [not_or, Bool.not_eq_false, ne_eq, Classical.not_not] at hc
    obtain ⟨u, h1, h2⟩ := andThen_eq_next h
    obtain ⟨hf, rfl⟩ := onPort_next.1 h1
    have hb : s.dev.txBusy = false := by
      rw [portFree_true] at hf
      simpa using hf
    simp only [if_true, onSize, emit_resp, commandFrame_length] at h2
    obtain ⟨hc1, rfl⟩ := hc
    refine .inr ⟨hc1, rfl, hb, ?_⟩
    split at h2 <;> cases h2 <;> rfl

/-- How `read` can end (R156): turned away, or issued in the event-driven style, or the receive failed, or its bytes are
in the receive buffer. -/
theorem driverRead_next {r : BusResult} {bytes : List Byte} {s t : State} (h : driverRead r bytes s = .next t) :
    t = s.returnStatus .invalidParam ∨
    (100 ≤ s.cfg.bufferCapacity ∧ (t = ((s.asksReceive 100).withAwaited (some 100)).returnStatus .ok ∨
      t = receiveFailed 100 r bytes (s.asksReceive 100) ∨
      (s.accepts bytes.length = true ∧ t = ((s.asksReceive 100).received bytes).returnStatus .ok))) := by
  unfold driverRead at h
  simp only [responseSize_eq] at h
  split at h
  · cases h
    exact .inl rfl
  split at h
  · cases h
  split at h
  · cases h
  rename_i hc
  refine .inr ⟨Nat.not_lt.1 hc, ?_⟩
  split at h
  · cases h
    exact .inl rfl
  · rcases receiveExactly_next h with ⟨-, -, ha, h⟩ | ⟨-, rfl⟩
    · cases h
      exact .inr (.inr ⟨ha, rfl⟩)
    · exact .inr (.inl rfl)

/-- How `validate_response` can end (R157). -/
theorem driverValidate_next {c : CommandType} {s t : State} (h : driverValidate c s = .next t) :
    t = s.returnStatus .invalidParam ∨ ∃ st, t = ((s.bindTo .rx).respond (.status st)).returnStatus st := by
  unfold driverValidate at h
  split at h
  · cases h
    exact .inl rfl
  · obtain ⟨u, h1, h2⟩ := andThen_eq_next h
    obtain ⟨-, rfl⟩ := onPort_next.1 h1
    cases h2
    exact .inr ⟨_, rfl⟩

end Sys2Proof.Machine
end

