-- ==== Sys2Proof/Laws/PerInstr.lean ====
section
/-! SUPPORT. One law per constructor of Instr: the shape of its word. A request encodes to a request record and has no
frame bytes; a frame kind encodes to its frame's bytes, which begin with the two sync bytes and are `8 + length` many
(spec/30_encoding.md R60, R62, R80). -/

namespace Sys2Proof.Laws.WordShape

open Sys2Proof.Machine

/-- The shape of an instruction's word. -/
def Statement (i : Instr) : Prop :=
  ∀ c : Config, if isRequest i = true then frameBytes c i = [] ∧ ∃ w, encode c i = .request w
    else encode c i = .wire (frameBytes c i) ∧ (frameBytes c i).take 2 = [0xB5, 0x62] ∧ 8 ≤ (frameBytes c i).length

/-- A frame begins with the sync bytes and has at least 8 bytes. -/
theorem frameWith_shape (c : Config) (cls id : Byte) (p : List Byte) (a b : Byte) :
    (frameWith c cls id p a b).take 2 = [0xB5, 0x62] ∧ 8 ≤ (frameWith c cls id p a b).length := by
  refine ⟨?_, by simp⟩
  rw [frameWith_eq]
  rfl

theorem prepcmd (bufp : Bool) (cls id : Byte) : Statement (.prepcmd bufp cls id) := fun _ => ⟨rfl, _, rfl⟩
theorem prepcfg (bufp : Bool) (key : Word) (valp : Bool) (val : Word) (vw : Byte) :
    Statement (.prepcfg bufp key valp val vw) := fun _ => ⟨rfl, _, rfl⟩
theorem cksum (bufp : Bool) (ofs count : Half) : Statement (.cksum bufp ofs count) := fun _ => ⟨rfl, _, rfl⟩
theorem valpkt (bufp : Bool) (size : Half) (cls id : Byte) : Statement (.valpkt bufp size cls id) := fun _ => ⟨rfl, _, rfl⟩
theorem valack (bufp : Bool) (size : Half) (cls id : Byte) : Statement (.valack bufp size cls id) := fun _ => ⟨rfl, _, rfl⟩
theorem prepcfgU1 (bufp : Bool) (key : Word) (val : Byte) : Statement (.prepcfgU1 bufp key val) := fun _ => ⟨rfl, _, rfl⟩
theorem prepcfgU2 (bufp : Bool) (key : Word) (val : Half) : Statement (.prepcfgU2 bufp key val) := fun _ => ⟨rfl, _, rfl⟩
theorem prepcfgU4 (bufp : Bool) (key val : Word) : Statement (.prepcfgU4 bufp key val) := fun _ => ⟨rfl, _, rfl⟩
theorem ubxHeader (cls id : Byte) (payload : List Byte) (ckA ckB : Byte) :
    Statement (.ubxHeader cls id payload ckA ckB) := fun _ => ⟨rfl, frameWith_shape _ _ _ _ _ _⟩
theorem ubxCfgValset (key : Word) (value : List Byte) (ckA ckB : Byte) :
    Statement (.ubxCfgValset key value ckA ckB) := fun _ => ⟨rfl, frameWith_shape _ _ _ _ _ _⟩
theorem ubxAckAck (cls id ckA ckB : Byte) : Statement (.ubxAckAck cls id ckA ckB) := fun _ => ⟨rfl, frameWith_shape _ _ _ _ _ _⟩
theorem ubxAckNak (cls id ckA ckB : Byte) : Statement (.ubxAckNak cls id ckA ckB) := fun _ => ⟨rfl, frameWith_shape _ _ _ _ _ _⟩
theorem ubxNavPvtPoll : Statement .ubxNavPvtPoll := fun _ => ⟨rfl, frameWith_shape _ _ _ _ _ _⟩
theorem ubxNavPvt (payload : List Byte) (ckA ckB : Byte) : Statement (.ubxNavPvt payload ckA ckB) :=
  fun _ => ⟨rfl, frameWith_shape _ _ _ _ _ _⟩
theorem ubxNavStatus (payload : List Byte) (ckA ckB : Byte) : Statement (.ubxNavStatus payload ckA ckB) :=
  fun _ => ⟨rfl, frameWith_shape _ _ _ _ _ _⟩

end Sys2Proof.Laws.WordShape
end

