-- ==== Sys2Proof/Tests/Slice0.lean ====
section
/-! SUPPORT. The model's own tests. Expected values are the spec's vectors (spec/95_test_vectors.md, by name in each
docstring) or hand calculation from the cited rule; then a witness for each statement that has hypotheses. -/

namespace Sys2Proof.Tests

open Sys2Proof.Machine Sys2Proof.Claims

set_option maxRecDepth 20000

/-- The outcome is a next state that satisfies `p`. -/
def nextAnd (o : Host.Outcome State Fault Refusal) (p : State → Bool) : Bool :=
  match o with
  | .next t => p t
  | .fault _ => false
  | .refused _ => false

/-- The outcome is this refusal. -/
def refusedAs (o : Host.Outcome State Fault Refusal) (r : Refusal) : Bool :=
  match o with
  | .next _ => false
  | .fault _ => false
  | .refused r' => r' == r

/-- The outcome is this fault. -/
def faultedAs (o : Host.Outcome State Fault Refusal) (r : Fault) : Bool :=
  match o with
  | .next _ => false
  | .fault r' => r' == r
  | .refused _ => false

theorem of_nextAnd {o p} (h : nextAnd o p = true) : ∃ t, o = .next t ∧ p t = true := by
  cases o with
  | next t => exact ⟨t, rfl, h⟩
  | fault r => cases h
  | refused r => cases h

theorem of_refusedAs {o r} (h : refusedAs o r = true) : o = .refused r := by
  cases o with
  | next t => cases h
  | fault r => cases h
  | refused r' => exact congrArg _ (of_decide_eq_true h)

theorem of_faultedAs {o r} (h : faultedAs o r = true) : o = .fault r := by
  cases o with
  | next t => cases h
  | fault r' => exact congrArg _ (of_decide_eq_true h)
  | refused r => cases h

/-- Reset, with `bytes` at offset 0 of the bound transmit buffer and `EE` just above them. -/
def txHolds (bytes : List Byte) : State :=
  { State.reset with tx := Memory.writeBytes [] 0 (bytes ++ [0xEE]) }

/-- Reset, with `bytes` at offset 0 of the receive buffer, bound, and `EE` just above them. -/
def rxHolds (bytes : List Byte) : State :=
  { State.reset with rx := Memory.writeBytes [] 0 (bytes ++ [0xEE]), bound := .rx }

/-- The encoder answered the size of `bytes`, and they are what it wrote over 24 bytes `EE`. -/
def wrote (bytes : List Byte) (t : State) : Bool :=
  t.resp == some (.size (BitVec.ofNat 16 bytes.length)) &&
    t.tx == Memory.writeBytes (Memory.writeBytes [] 0 (List.replicate 24 0xEE)) 0 bytes

/-- 24 bytes `EE` in the transmit buffer. -/
def filled : State := { State.reset with tx := Memory.writeBytes [] 0 (List.replicate 24 0xEE) }

/-- The validator answered `st`. -/
def answered (st : Status) (t : State) : Bool := t.resp == some (.status st)

/-- The spec's S1 frame: "enable UBX output". -/
def s1Frame : List Byte := [0xB5, 0x62, 0x06, 0x8A, 0x09, 0x00, 0x00, 0x11, 0x00, 0x00, 0x01, 0x00, 0x72, 0x10, 0x01, 0x2E, 0x2D]

/-- The spec's Ack and Nack of Config-Set (VA1, VA3). -/
def ackFrame : List Byte := [0xB5, 0x62, 0x05, 0x01, 0x02, 0x00, 0x06, 0x8A, 0x98, 0xC1]
def nakFrame : List Byte := [0xB5, 0x62, 0x05, 0x00, 0x02, 0x00, 0x06, 0x8A, 0x97, 0xBC]

/-- The spec's Navigation-PVT poll (PC1). -/
def pollFrame : List Byte := [0xB5, 0x62, 0x01, 0x07, 0x00, 0x00, 0x08, 0x19]

/-- The spec's Navigation-Status frame (VP21). -/
def statusFrame : List Byte := [0xB5, 0x62, 0x01, 0x03, 0x10, 0x00, 0x10, 0x0F, 0x0E, 0x0D, 0x0C, 0x0B, 0x0A, 0x09, 0x08, 0x07, 0x06, 0x05, 0x04, 0x03, 0x02, 0x01, 0x9C, 0x45]

/-- VP20b: a Navigation-PVT response with an all-zero payload. -/
def pvtFrame : List Byte := [0xB5, 0x62, 0x01, 0x07, 0x5C, 0x00] ++ List.replicate 92 0 ++ [0x64, 0xC1]

/-! ### Well-formedness: each check refuses an ill-formed term -/

/-- R61: a payload the 16-bit length field cannot count. -/
theorem test_wf_refuses_header_too_long (c : Config) : (Instr.ubxHeader 0 0 (List.replicate 65536 0) 0 0).wf c = false := by
  rw [Instr.wf, List.length_replicate]
  rfl

/-- R65: an Ack under the general kind. -/
theorem test_wf_refuses_header_of_named_kind : (Instr.ubxHeader 0x05 0x01 [6, 0x8A] 0 0).wf Config.standard = false := by
  decide

/-- R9, R104: more than MAX_VALUE_WIDTH value bytes. -/
theorem test_wf_refuses_wide_value : (Instr.ubxCfgValset 1 [1, 2, 3, 4, 5] 0 0).wf Config.standard = false := by decide

/-- R66: a Navigation-PVT response is 92 bytes. -/
theorem test_wf_refuses_short_pvt : (Instr.ubxNavPvt (List.replicate 91 0) 0 0).wf Config.standard = false := by decide

/-- R66: Navigation-Status is 16 bytes. -/
theorem test_wf_refuses_long_status : (Instr.ubxNavStatus (List.replicate 17 0) 0 0).wf Config.standard = false := by decide

/-- R9: ID_ACK_NAK must differ from ID_ACK_ACK. -/
theorem test_config_wf_refuses_equal_ack_ids : ({ Config.standard with idAckNak := 0x01 } : Config).wf = false := by decide

/-! ### Decoding: words written out from the encodings (R21's fields in order from bit 0, log 1; R60, R64 to R66) -/

/-- OP 0, BUFP at bit 3, CLS at 20, ID at 28. -/
theorem test_decode_prepcmd : decodeRequest (0 + 2^3 + 0x01 * 2^20 + 0x07 * 2^28) = .prepcmd true 0x01 0x07 := by decide

/-- OP 1, KEY at 36, VALP at 68, VAL at 69, VW at 101. -/
theorem test_decode_prepcfg : decodeRequest (1 + 2^3 + 0x10720001 * 2^36 + 2^68 + 0xFFFFFF01 * 2^69 + 1 * 2^101) =
    .prepcfg true 0x10720001 true 0xFFFFFF01 1 := by decide

/-- OP 2, OFS at 109, COUNT at 125. -/
theorem test_decode_cksum : decodeRequest (2 + 2^3 + 2 * 2^109 + 0xFFFF * 2^125) = .cksum true 2 0xFFFF := by decide

/-- OP 3, SIZE at 4. -/
theorem test_decode_valpkt : decodeRequest (3 + 2^3 + 100 * 2^4 + 0x01 * 2^20 + 0x07 * 2^28) = .valpkt true 100 1 7 := by decide

/-- OP 4. -/
theorem test_decode_valack : decodeRequest (4 + 2^3 + 10 * 2^4 + 0x06 * 2^20 + 0x8A * 2^28) = .valack true 10 6 0x8A := by
  decide

/-- OP 5: only VAL[7:0] is read. -/
theorem test_decode_prepcfgU1 : decodeRequest (5 + 2^3 + 0x10720001 * 2^36 + 0xABCDEF01 * 2^69) =
    .prepcfgU1 true 0x10720001 0x01 := by decide

/-- OP 6: VAL[15:0]. -/
theorem test_decode_prepcfgU2 : decodeRequest (6 + 2^3 + 0x30210001 * 2^36 + 0xABCD03E8 * 2^69) =
    .prepcfgU2 true 0x30210001 0x03E8 := by decide

/-- OP 7: VAL[31:0]. -/
theorem test_decode_prepcfgU4 : decodeRequest (7 + 2^3 + 0x12345678 * 2^36 + 0x9ABCDEF0 * 2^69) =
    .prepcfgU4 true 0x12345678 0x9ABCDEF0 := by decide

/-- R60: a frame of a class and id the catalogue does not name. -/
theorem test_decode_ubxHeader : decode Config.standard (.wire [0xB5, 0x62, 0x0A, 0x04, 0x01, 0x00, 0xAA, 0x01, 0x02]) =
    .ok (.ubxHeader 0x0A 0x04 [0xAA] 0x01 0x02) := by decide

/-- R64: the S1 frame is the key 0x10720001 with the one value byte 1. -/
theorem test_decode_ubxCfgValset : decode Config.standard (.wire s1Frame) =
    .ok (.ubxCfgValset 0x10720001 [0x01] 0x2E 0x2D) := by decide

/-- R65 -/
theorem test_decode_ubxAckAck : decode Config.standard (.wire ackFrame) = .ok (.ubxAckAck 0x06 0x8A 0x98 0xC1) := by decide

/-- R65 -/
theorem test_decode_ubxAckNak : decode Config.standard (.wire nakFrame) = .ok (.ubxAckNak 0x06 0x8A 0x97 0xBC) := by decide

/-- R66; with another checksum the frame is no poll. -/
theorem test_decode_ubxNavPvtPoll : decode Config.standard (.wire pollFrame) = .ok .ubxNavPvtPoll ∧
    decode Config.standard (.wire [0xB5, 0x62, 0x01, 0x07, 0x00, 0x00, 0x08, 0x1A]) =
      .ok (.ubxHeader 0x01 0x07 [] 0x08 0x1A) := by decide

/-- R66 -/
theorem test_decode_ubxNavPvt : decode Config.standard (.wire pvtFrame) =
    .ok (.ubxNavPvt (List.replicate 92 0) 0x64 0xC1) := by decide

/-- R66 -/
theorem test_decode_ubxNavStatus : decode Config.standard (.wire statusFrame) =
    .ok (.ubxNavStatus [16, 15, 14, 13, 12, 11, 10, 9, 8, 7, 6, 5, 4, 3, 2, 1] 0x9C 0x45) := by decide

/-- R60, R62: what is no frame, and why. -/
theorem test_decode_rejects_by_name :
    decode Config.standard (.wire [0xB5, 0x62, 1, 7, 0]) = .error .noHeader ∧
    decode Config.standard (.wire [0xB5, 0x63, 1, 7, 0, 0, 8, 0x19]) = .error .badSync ∧
    decode Config.standard (.wire [0xB5, 0x62, 1, 7, 0, 0, 8]) = .error .truncated ∧
    decode Config.standard (.wire [0xB5, 0x62, 1, 7, 0, 0, 8, 0x19, 0]) = .error .trailing := by decide

/-! ### One step of each operation, on the spec's vectors -/

/-- PC1: the Navigation-PVT poll; bytes from offset 8 keep `EE`. -/
theorem test_prepcmd_poll : nextAnd (exec (.prepcmd true 0x01 0x07) filled) (wrote pollFrame) = true := by decide

/-- PC5: both accumulators wrap. -/
theorem test_prepcmd_wraps : nextAnd (exec (.prepcmd true 0xFF 0xFF) filled)
    (wrote [0xB5, 0x62, 0xFF, 0xFF, 0x00, 0x00, 0xFE, 0xF9]) = true := by decide

/-- PF9: bits of VAL above 8 VW are ignored. -/
theorem test_prepcfg_ignores_high_bits :
    nextAnd (exec (.prepcfg true 0x10720001 true 0xFFFFFF01 1) filled) (wrote s1Frame) = true := by decide

/-- PF12: width 3 by the literal rule (R109). -/
theorem test_prepcfg_width_three : nextAnd (exec (.prepcfg true 0x10720001 true 0xAABBCC 3) filled)
    (wrote [0xB5, 0x62, 0x06, 0x8A, 0x0B, 0x00, 0x00, 0x11, 0x00, 0x00, 0x01, 0x00, 0x72, 0x10, 0xCC, 0xBB, 0xAA, 0x60, 0x24]) = true := by decide

/-- PF1 -/
theorem test_prepcfgU1 : nextAnd (exec (.prepcfgU1 true 0x10720001 1) filled) (wrote s1Frame) = true := by decide

/-- PF3: 1000 is stored E8 03. -/
theorem test_prepcfgU2 : nextAnd (exec (.prepcfgU2 true 0x30210001 1000) filled)
    (wrote [0xB5, 0x62, 0x06, 0x8A, 0x0A, 0x00, 0x00, 0x11, 0x00, 0x00, 0x01, 0x00, 0x21, 0x30, 0xE8, 0x03, 0xE8, 0x54]) = true := by decide

/-- PF6: the byte order of key and value. -/
theorem test_prepcfgU4 : nextAnd (exec (.prepcfgU4 true 0x12345678 0x9ABCDEF0) filled)
    (wrote [0xB5, 0x62, 0x06, 0x8A, 0x0C, 0x00, 0x00, 0x11, 0x00, 0x00, 0x78, 0x56, 0x34, 0x12, 0xF0, 0xDE, 0xBC, 0x9A, 0xE5, 0xF1]) = true := by decide

/-- CK14: the S1 frame's own region. -/
theorem test_cksum_s1 : nextAnd (exec (.cksum true 2 13) (txHolds s1Frame))
    (fun t => t.resp == some (.checksum 0x2E 0x2D)) = true := by decide

/-- CK18, CK17: the contract's edge, OFS + COUNT = 128 and 129. -/
theorem test_cksum_edge : nextAnd (exec (.cksum true 128 0) State.reset) (fun t => t.resp == some (.checksum 0 0)) = true ∧
    refusedAs (exec (.cksum true 120 9) State.reset) .cksumPastEnd = true := by decide

/-- CK4, CK5, CK8: order matters, and ckA wraps. -/
theorem test_fletcher8_vectors : fletcher8 [1, 2] = (3, 4) ∧ fletcher8 [2, 1] = (3, 5) ∧ fletcher8 [0x80, 0x80] = (0, 0x80) := by
  decide

/-- VP10, VP9: trailing garbage left out of SIZE, and counted in it. -/
theorem test_valpkt_size_rule :
    nextAnd (exec (.valpkt true 8 0x01 0x07) (rxHolds (pollFrame ++ [0xDE, 0xAD]))) (answered .ok) = true ∧
    nextAnd (exec (.valpkt true 10 0x01 0x07) (rxHolds (pollFrame ++ [0xDE, 0xAD]))) (answered .error) = true := by decide

/-- VP11b, VP17: a wrong checksumB alone; a structural defect and a wrong checksum together. -/
theorem test_valpkt_checksum_last :
    nextAnd (exec (.valpkt true 8 1 7) (rxHolds [0xB5, 0x62, 1, 7, 0, 0, 8, 0x1A])) (answered .checksumError) = true ∧
    nextAnd (exec (.valpkt true 8 1 7) (rxHolds [0xB4, 0x62, 1, 7, 0, 0, 9, 9])) (answered .error) = true := by decide

/-- VA1, VA2: the echo must be the command's. -/
theorem test_valack_echo : nextAnd (exec (.valack true 10 0x06 0x8A) (rxHolds ackFrame)) (answered .ok) = true ∧
    nextAnd (exec (.valack true 10 0x06 0x01) (rxHolds ackFrame)) (answered .error) = true := by decide

/-- VA5, VA14: a Nack with a bad checksum; a zero-length Ack-class frame. -/
theorem test_valack_corners :
    nextAnd (exec (.valack true 10 0x06 0x8A) (rxHolds [0xB5, 0x62, 5, 0, 2, 0, 6, 0x8A, 0, 0])) (answered .error) = true ∧
    nextAnd (exec (.valack true 8 0x06 0x17) (rxHolds [0xB5, 0x62, 5, 1, 0, 0, 6, 0x17])) (answered .ok) = true := by decide

/-- The frame is in the receive buffer byte for byte, and its length in the record. -/
def arrived (bytes : List Byte) (t : State) : Bool :=
  t.rx == Memory.writeBytes [] 0 bytes && t.dev.rxLen == BitVec.ofNat 16 bytes.length

/-- R60, R64 to R66: each frame kind arrives as the spec's bytes for it. -/
theorem test_ubxHeader_arrives : nextAnd (exec (.ubxHeader 0x0A 0x04 [0xAA] 1 2) State.reset)
    (arrived [0xB5, 0x62, 0x0A, 0x04, 0x01, 0x00, 0xAA, 0x01, 0x02]) = true := by decide
theorem test_ubxCfgValset_arrives : nextAnd (exec (.ubxCfgValset 0x10720001 [1] 0x2E 0x2D) State.reset) (arrived s1Frame) = true := by
  decide
theorem test_ubxAckAck_arrives : nextAnd (exec (.ubxAckAck 6 0x8A 0x98 0xC1) State.reset) (arrived ackFrame) = true := by decide
theorem test_ubxAckNak_arrives : nextAnd (exec (.ubxAckNak 6 0x8A 0x97 0xBC) State.reset) (arrived nakFrame) = true := by decide
theorem test_ubxNavPvtPoll_arrives : nextAnd (exec .ubxNavPvtPoll State.reset) (arrived pollFrame) = true := by decide
theorem test_ubxNavPvt_arrives : nextAnd (exec (.ubxNavPvt (List.replicate 92 0) 0x64 0xC1) State.reset) (arrived pvtFrame) = true := by
  decide
theorem test_ubxNavStatus_arrives :
    nextAnd (exec (.ubxNavStatus [16, 15, 14, 13, 12, 11, 10, 9, 8, 7, 6, 5, 4, 3, 2, 1] 0x9C 0x45) State.reset)
      (arrived statusFrame) = true := by decide

/-- H7: address 0x42 is handed over as 0x84. -/
theorem test_bus_address : busAddress 0x42 = 0x84 := by decide

/-! ### Witnesses: for each statement with hypotheses, values that meet them all -/

/-- A device that is ready: `init` done, a complete transport of the given style, a poll outstanding. -/
def readyDev (style : TransportStyle) : Device :=
  { Device.zero with
    initialized := true
    currentCommand := .readNavPvt
    transport := { busHandle := 1, address8 := 0x84, timeoutMs := 100, style := style, hasTransmit := true, hasReceive := true, hasDelay := true } }

/-- Reset with a ready device. -/
def ready (style : TransportStyle) : State := { State.reset with dev := readyDev style }

/-- A complete driver configuration. -/
def goodConfig : DriverConfig :=
  { busHandle := 1, address7 := 0x42, timeoutMs := 100, style := .blocking, hasTransmit := true, hasReceive := true, hasDelay := true }

/-- A round that goes well with these ten bytes. -/
def goodRound (ack : List Byte) : Handshake := { sent := .done, settled := true, got := .done, ack := ack }

/-- The PREPCMD request of a buffer, as the next word. -/
def asked : State := { State.reset with agenda := [.word (.request 0x70100008)] }

/-- A receive in flight on the bound receive buffer, and a transmit on the bound transmit buffer. -/
def rxInFlight : State := { State.reset with bound := .rx, dev := { Device.zero with rxAwaited := some 100 } }
def txInFlight : State := { State.reset with dev := { Device.zero with txBusy := true } }

theorem reset_inv (c : Config) (agenda : List HostAct) : { State.resetWith c with agenda := agenda }.Inv := by
  refine ⟨?_, by simp [State.resetWith]⟩
  constructor <;> simp [State.resetWith, State.inHand, Device.zero, Memory.wf, Memory.wfFrom, Memory.below]

theorem witness_StepKeepsInvariant : ∃ s t : State, s.Inv ∧ step s = .next t ∧ t.resp = some (.size 8) := by
  obtain ⟨t, h, e⟩ := of_nextAnd (o := step asked) (p := fun t => t.resp == some (.size 8)) (by decide)
  exact ⟨asked, t, reset_inv _ _, h, by simpa using e⟩

theorem witness_StepRunsTheDecodedWord :
    decode asked.cfg (.request 0x70100008) = .ok (.prepcmd true 1 7) ∧
    decode Config.standard (.wire ackFrame) = .ok (.ubxAckAck 6 0x8A 0x98 0xC1) ∧
    decode Config.standard (.wire [0xB5]) = .error .noHeader ∧ State.reset.agenda = [] ∧
    State.reset.cfg = Config.standard ∧ decodeTableWord 8 7 = some (.prepcfgU4 false 0 0) := by decide

theorem witness_StepKeepsParameters : ∃ t, step asked = .next t ∧ t.resp = some (.size 8) := by
  obtain ⟨t, h, e⟩ := of_nextAnd (o := step asked) (p := fun t => t.resp == some (.size 8)) (by decide)
  exact ⟨t, h, by simpa using e⟩

/-- Each stop is reached: a frame longer than the buffer, CKSUM's two, a buffer in flight, a length not declared. -/
theorem witness_ExecStopsOnlyAsNamed :
    exec (.ubxNavStatus (List.replicate 16 0) 0 0) (State.resetWith (Config.withExtra 0)) = .fault .offsetOutsideBuffer ∧
    exec (.cksum false 0 0) State.reset = .refused .cksumNoBuffer ∧
    exec (.cksum true 120 9) State.reset = .refused .cksumPastEnd ∧
    exec (.valpkt true 100 1 7) rxInFlight = .refused .bufferInFlight ∧
    exec (.ubxAckAck 6 0x8A 0x98 0xC1) rxInFlight = .refused .transferLengthMismatch :=
  ⟨of_faultedAs (by decide), of_refusedAs (by decide), of_refusedAs (by decide), of_refusedAs (by decide),
    of_refusedAs (by decide)⟩

/-- Well-formed instructions at the edges: the longest payload, no value and four value bytes. -/
theorem witness_DecodeEncodeAgree : Config.standard.wf = true ∧
    (Instr.ubxHeader 0 0 (List.replicate 65535 0) 0 0).wf Config.standard = true ∧
    (Instr.ubxCfgValset 1 [] 0 0).wf Config.standard = true ∧ (Instr.ubxCfgValset 1 [1, 2, 3, 4] 0 0).wf Config.standard = true ∧
    (Instr.ubxNavPvt (List.replicate 92 0) 0 0).wf Config.standard = true := by
  refine ⟨by decide, ?_, by decide, by decide, by decide⟩
  rw [wf_ubxHeader_iff, List.length_replicate]
  exact ⟨by decide, rfl⟩

theorem witness_FrameDecodingLosesNothing : decode Config.standard (.wire pollFrame) = .ok .ubxNavPvtPoll := by decide

theorem witness_WideAccessIsLittleEndian : Memory.wf [(3, 7)] = true ∧ (3 : Nat) < 4 ∧ (9 : Nat) < 10 ∧ 10 + 4 ≤ 14 := by decide

theorem witness_BufferContentsAreCanonical : Memory.wf [(3, 7)] = true ∧
    ∀ a, Memory.read [(3, 7)] a = Memory.read (Memory.write [] 3 7) a := ⟨by decide, fun _ => rfl⟩

theorem witness_OperationsWriteOnlyTheirFrame :
    nextAnd (exec (.prepcfgU4 true 1 2) State.reset) (fun t => t.resp == some (.size 20)) = true ∧
    nextAnd (exec (.prepcfgU4 true 1 2) filled) (fun t => t.resp == some (.size 20)) = true ∧
    State.reset.buf.wf = true ∧ filled.buf.wf = true ∧ filled.cfg = State.reset.cfg ∧
    nextAnd (exec (.prepcfg true 1 true 2 5) State.reset) (fun t => t.resp == some (.size 0)) = true := by decide

/-- Two states with the same parameters and bound bytes, and another host record. -/
theorem witness_BlockIsStateless : isRequest (.prepcmd true 1 7) = true ∧ State.reset.cfg = (ready .blocking).cfg ∧
    State.reset.buf = (ready .blocking).buf ∧ State.reset ≠ ready .blocking ∧
    nextAnd (exec (.prepcmd true 1 7) State.reset) (fun _ => true) = true ∧
    nextAnd (exec (.prepcmd true 1 7) (ready .blocking)) (fun _ => true) = true := by decide

/-- Every operation and every frame kind answers a next state at reset. -/
theorem witness_EachOperationAnswersItsOwnResult :
    [exec (.prepcmd true 1 7) State.reset, exec (.prepcfg true 1 true 1 4) State.reset, exec (.prepcfgU1 true 1 1) State.reset,
      exec (.prepcfgU2 true 1 1) State.reset, exec (.prepcfgU4 true 1 1) State.reset, exec (.cksum true 0 128) State.reset,
      exec (.valpkt true 8 1 7) State.reset, exec (.valack true 10 6 0x8A) State.reset, exec .ubxNavPvtPoll State.reset].all
        (fun o => nextAnd o fun _ => true) = true := by decide

/-- The encoders' premises, at the widths' edges. -/
theorem witness_PrepcmdWritesTheCommandFrame : State.reset.buf.wf = true ∧ State.reset.portFree true = true := by decide

theorem witness_PrepcfgWritesTheConfigSetFrame : State.reset.buf.wf = true ∧ State.reset.portFree true = true ∧
    4 < (5 : Byte).toNat ∧ txInFlight.portFree false = true := by decide

theorem witness_PrepcfgWidthsZeroAndThreeByTheLiteralRule : filled.buf.wf = true ∧ filled.portFree true = true := by decide

theorem witness_TypedWrappersWriteTheirFrames : filled.buf.wf = true ∧ filled.portFree true = true := by decide

theorem witness_PrepcmdChecksumClosedForm : ∃ t, exec (.prepcmd true 0xFF 0xFF) State.reset = .next t := by
  obtain ⟨t, h, -⟩ := of_nextAnd (o := exec (.prepcmd true 0xFF 0xFF) State.reset) (p := fun _ => true) (by decide)
  exact ⟨t, h⟩

theorem witness_EncoderRoundTrip :
    (∃ t, exec (.prepcfg true 1 true 1 0) State.reset = .next t ∧ t.resp = some (.size 16)) ∧
    (∃ t, exec (.prepcfgU4 true 1 1) State.reset = .next t ∧ t.resp = some (.size 20)) ∧
    (∃ t, exec (.prepcmd true 1 7) State.reset = .next t) := by
  obtain ⟨t, h, e⟩ := of_nextAnd (o := exec (.prepcfg true 1 true 1 0) State.reset) (p := fun t => t.resp == some (.size 16))
    (by decide)
  obtain ⟨u, h', e'⟩ := of_nextAnd (o := exec (.prepcfgU4 true 1 1) State.reset) (p := fun t => t.resp == some (.size 20))
    (by decide)
  obtain ⟨v, h'', -⟩ := of_nextAnd (o := exec (.prepcmd true 1 7) State.reset) (p := fun _ => true) (by decide)
  exact ⟨⟨t, h, by simpa using e⟩, ⟨u, h', by simpa using e'⟩, ⟨v, h''⟩⟩

theorem witness_FletcherSeesEverySingleByte : (1 : Byte) ≠ 2 := by decide

theorem witness_CksumAnswersItsRegion : State.reset.portFree true = true ∧
    (128 : Half).toNat + (0 : Half).toNat ≤ State.reset.cfg.bufferCapacity ∧
    State.reset.cfg.bufferCapacity < (120 : Half).toNat + (9 : Half).toNat := by decide

/-- The premises of steps 4 to 7 of R130: the bound buffer begins with the sync bytes and the class and id 1, 7, and declares `n`. -/
def declares (s : State) (n : Nat) : Bool :=
  s.portFree true && s.buf.read 0 == 0xB5 && s.buf.read 1 == 0x62 && s.buf.read 2 == 1 && s.buf.read 3 == 7 &&
    (s.buf.read 4).toNat + 256 * (s.buf.read 5).toNat == n

/-- A state for each clause of R130: SIZE 7; the second sync byte; the class; a declared 121 of at most 120; a declared
120 at SIZE 127; SIZE 8 with a wrong checksumB; SIZE 8 with the right one. -/
theorem witness_ValpktStepsInOrder :
    ((rxHolds pollFrame).portFree true = true ∧ (7 : Half).toNat < 8 ∧ 8 ≤ (8 : Half).toNat) ∧
    ((rxHolds [0xB5, 0x63]).portFree true = true ∧ (rxHolds [0xB5, 0x63]).buf.read 1 ≠ 0x62) ∧
    (declares (rxHolds pollFrame) 0 = true ∧ (rxHolds pollFrame).buf.read 2 ≠ 2) ∧
    (declares (rxHolds [0xB5, 0x62, 1, 7, 0x79, 0]) 121 = true ∧ Config.standard.maxPayload < 121) ∧
    (declares (rxHolds [0xB5, 0x62, 1, 7, 0x78, 0]) 120 = true ∧ 120 ≤ Config.standard.maxPayload ∧
      (127 : Half).toNat ≠ 6 + 120 + 2) ∧
    (declares (rxHolds [0xB5, 0x62, 1, 7, 0, 0, 8, 0x1A]) 0 = true ∧ (8 : Half).toNat = 6 + 0 + 2 ∧
      (rxHolds [0xB5, 0x62, 1, 7, 0, 0, 8, 0x1A]).buf.read 7 ≠
        (fletcher8 (bytesAt (rxHolds [0xB5, 0x62, 1, 7, 0, 0, 8, 0x1A]).buf 2 4)).2) ∧
    ((rxHolds pollFrame).buf.read 6 = (fletcher8 (bytesAt (rxHolds pollFrame).buf 2 4)).1 ∧
      (rxHolds pollFrame).buf.read 7 = (fletcher8 (bytesAt (rxHolds pollFrame).buf 2 4)).2) := by decide

theorem witness_ValpktAcceptsExactlyFrames : (rxHolds pollFrame).portFree true = true ∧ rxInFlight.portFree false = true := by
  decide

theorem witness_TenByteAckMatchesItsCommand : (rxHolds ackFrame).portFree true = true ∧ rxInFlight.portFree false = true := by
  decide

/-- Two buffers that differ at offset 8 only, and a request of SIZE 8. -/
theorem witness_ValidatorsReadOnlyDeclaredBytes :
    (rxHolds pollFrame).cfg = (rxHolds (pollFrame ++ [1])).cfg ∧ (rxHolds (pollFrame ++ [1])).portFree true = true ∧
    (∀ a < 8, (rxHolds pollFrame).buf.read a = (rxHolds (pollFrame ++ [1])).buf.read a) ∧
    (rxHolds pollFrame).buf ≠ (rxHolds (pollFrame ++ [1])).buf ∧
    nextAnd (exec (.valpkt true 8 1 7) (rxHolds pollFrame)) (answered .ok) = true := by decide

theorem witness_OversizedSizeIsRejected : State.reset.portFree true = true ∧
    State.reset.cfg.bufferCapacity < (129 : Half).toNat := by decide

/-- The S1 frame is accepted, and offsets 0 and 14 (of the last byte the statement speaks of) hold other bytes. -/
theorem witness_SingleByteChangeIsRejected : (txHolds s1Frame).buf.wf = true ∧
    nextAnd (exec (.valpkt true 17 6 0x8A) (txHolds s1Frame)) (answered .ok) = true ∧
    14 + 2 < (17 : Half).toNat ∧ (0 : Byte) ≠ (txHolds s1Frame).buf.read 14 ∧
    0 + 2 < (17 : Half).toNat ∧ (0xB4 : Byte) ≠ (txHolds s1Frame).buf.read 0 := by decide

/-- The four clauses of R135: a Nack; another inner failure; an accepted Ack that echoes another command; one that echoes
this one. -/
theorem witness_ValackVerdict :
    ((rxHolds nakFrame).portFree true = true ∧ validatePacket Config.standard true (rxHolds nakFrame).buf 10 5 1 ≠ .ok ∧
      (rxHolds nakFrame).buf.read 3 = Config.standard.idAckNak) ∧
    (validatePacket Config.standard true (rxHolds ackFrame).buf 9 5 1 ≠ .ok ∧
      (rxHolds ackFrame).buf.read 3 ≠ Config.standard.idAckNak) ∧
    (validatePacket Config.standard true (rxHolds ackFrame).buf 10 5 1 = .ok ∧ (rxHolds ackFrame).buf.read 7 ≠ 1) ∧
    ((rxHolds ackFrame).buf.read 6 = 6 ∧ (rxHolds ackFrame).buf.read 7 = 0x8A) := by decide

theorem witness_ValackNackBranchIsInvisible : (rxHolds nakFrame).cfg.wf = true ∧ (rxHolds nakFrame).portFree true = true ∧
    8 ≤ (8 : Half).toNat ∧ (rxHolds nakFrame).buf.read 3 = (rxHolds nakFrame).cfg.idAckNak := by decide

theorem witness_ZeroLengthAckComparesItsChecksum :
    (rxHolds [0xB5, 0x62, 5, 1, 0, 0, 6, 0x17]).portFree true = true ∧
    bytesAt (rxHolds [0xB5, 0x62, 5, 1, 0, 0, 6, 0x17]).buf 0 8 = frame Config.standard 5 1 [] := by decide

/-- Both buffers in flight on a ready device; the first two clauses' other premises at the capacity's edge. -/
theorem witness_BufferInFlightIsRefused : rxInFlight.busy rxInFlight.bound = true ∧ txInFlight.busy txInFlight.bound = true ∧
    (128 : Half).toNat + (0 : Half).toNat ≤ rxInFlight.cfg.bufferCapacity ∧ goodConfig.hasTransmit = true ∧
    goodConfig.hasReceive = true ∧ goodConfig.hasDelay = true ∧ { readyDev .eventDriven with txBusy := true }.initialized = true ∧
    { readyDev .eventDriven with rxAwaited := some 100 }.currentCommand = .readNavPvt := by decide

/-- More bytes than were declared come, and only 100 are kept; and no receive is in flight. -/
theorem witness_TransfersEndAsTheTransportSays : rxInFlight.rx.wf = true ∧ rxInFlight.dev.rxAwaited = some 100 ∧
    ((List.replicate 101 (0xEE : Byte)).take 100).length = 100 ∧ txInFlight.dev.rxAwaited = none := by decide

/-- The capacity's edge for each kind: 120 payload bytes, 4 value bytes, a declared 100. -/
theorem witness_FramesArriveAsTheTableLaysThemOut : State.reset.rx.wf = true ∧ State.reset.accepts (120 + 8) = true ∧
    State.reset.accepts (4 + 16) = true ∧ State.reset.accepts 10 = true ∧ State.reset.accepts 8 = true ∧
    rxInFlight.accepts 100 = true ∧ State.reset.accepts 24 = true ∧
    (List.replicate 92 (0 : Byte)).length = 92 ∧ (List.replicate 16 (0 : Byte)).length = 16 := by decide

theorem witness_ArrivedAcknowledgmentsAreJudged :
    nextAnd (exec (.ubxAckAck 6 0x8A 0x98 0xC1) (State.reset.bindTo .rx)) (fun t => t.bound == .rx) = true ∧
    nextAnd (exec (.ubxAckNak 6 0x8A 0x97 0xBC) (State.reset.bindTo .rx)) (fun t => t.bound == .rx) = true := by decide

/-- H1, H3, H5. -/
theorem witness_CommandAndReadAreGated : State.reset.dev.initialized = false ∧ CommandType.unsupported 2 ≠ .readNavPvt ∧
    { readyDev .blocking with currentCommand := .none }.currentCommand ≠ .readNavPvt := by decide

theorem witness_CommandSendsThePoll : (ready .eventDriven).tx.wf = true ∧ (ready .eventDriven).dev.initialized = true ∧
    (ready .eventDriven).dev.txBusy = false := by decide

/-- The gate open in both styles, and 100 and 99 bytes; a buffer too small; a receive that fails. -/
theorem witness_ReadTakesExactlyOneHundredBytes : (ready .blocking).rx.wf = true ∧
    (ready .blocking).dev.currentCommand = .readNavPvt ∧ (ready .blocking).dev.rxAwaited = none ∧
    100 ≤ (ready .blocking).cfg.bufferCapacity ∧ (ready .blocking).dev.transport.style = .blocking ∧
    (ready .eventDriven).dev.transport.style = .eventDriven ∧ pvtFrame.length = 100 ∧ pvtFrame.tail.length ≠ 100 ∧
    { ready .blocking with cfg := Config.withExtra 79 }.cfg.bufferCapacity < 100 ∧ BusResult.timedOut ≠ .done := by decide

/-- The receive buffer holds an 8-byte frame of that class and id, the last thing received. -/
def shortResponse (c : Config) : State := { rxHolds pollFrame with cfg := c, dev := { Device.zero with rxLen := 8 } }

/-- The size received, not the size declared (R83). -/
def byReceived : Config := { Config.standard with validateSize := .received }

/-- A response of 100 bytes is accepted; one of 8 bytes is not at the size 100, and is at the size received (VP10), also
after a read that timed out or an event-driven receive that lapsed with those 8 bytes. -/
theorem witness_ValidateResponseIsValpkt : State.reset.dev.rxAwaited = none ∧ CommandType.none ≠ .readNavPvt ∧
    nextAnd (issue (rxHolds pvtFrame) (.driverValidate .readNavPvt)) (fun t => t.dev.result == some .ok) = true ∧
    nextAnd (issue (shortResponse Config.standard) (.driverValidate .readNavPvt))
      (fun t => t.dev.result == some .error) = true ∧
    nextAnd (issue (shortResponse byReceived) (.driverValidate .readNavPvt)) (fun t => t.dev.result == some .ok) = true ∧
    nextAnd (andThen (issue { ready .blocking with cfg := byReceived } (.driverRead .timedOut pollFrame)) fun s =>
      issue s (.driverValidate .readNavPvt)) (fun t => t.dev.rxLen == 8 && t.dev.result == some .ok) = true ∧
    nextAnd (andThen (issue { rxInFlight with cfg := byReceived } (.receiveLapsed pollFrame)) fun s =>
      issue s (.driverValidate .readNavPvt)) (fun t => t.dev.rxLen == 8 && t.dev.result == some .ok) = true := by decide

/-- Each key of the catalogue, and a further one (PF5's); the frames are PF1's and PF3's (R67: a rate of 1000 goes by PREPCFG.U2). -/
theorem witness_CatalogueKeysUseTheirWrapper : Config.standard.itemUbx ∈ filled.cfg.catalogue ∧
    Config.standard.itemNmea ∈ filled.cfg.catalogue ∧ Config.standard.itemRate ∈ filled.cfg.catalogue ∧
    (⟨0x40520001, .four⟩ : ConfigItem) ∈ { Config.standard with moreItems := [⟨0x40520001, .four⟩] }.catalogue ∧
    filled.buf.wf = true ∧ filled.portFree true = true ∧
    nextAnd (exec (itemRequest Config.standard.itemUbx 1) filled) (wrote s1Frame) = true ∧
    nextAnd (exec (itemRequest Config.standard.itemRate 1000) filled) (wrote [0xB5, 0x62, 0x06, 0x8A, 0x0A, 0x00, 0x00, 0x11, 0x00, 0x00, 0x01, 0x00, 0x21, 0x30, 0xE8, 0x03, 0xE8, 0x54]) = true := by decide

/-- A missing pointer (H6), and P2, which succeeds. -/
theorem witness_InitSetsTheGateOnlyOnFullSuccess :
    nextAnd (issue State.reset (.driverInit { goodConfig with hasDelay := false } (goodRound []) (goodRound [])))
      (fun t => t.dev.result == some .invalidParam) = true ∧
    nextAnd (issue State.reset (.driverInit goodConfig (goodRound ackFrame) (goodRound ackFrame)))
      (fun t => t.dev.result == some .ok) = true := by decide

/-- The configuration with an event-driven transport. -/
def eventConfig : DriverConfig := { goodConfig with style := .eventDriven }

/-- `init` from reset ends with `n` calls made and the status `st`. -/
def initEnds (c : DriverConfig) (h1 h2 : Handshake) (n : Nat) (st : Status) : Bool :=
  nextAnd (issue State.reset (.driverInit c h1 h2)) fun t => t.calls.length == n && t.dev.result == some st

/-- A good round. -/
def good : Handshake := goodRound ackFrame

/-- Ten bytes of an Ack whose second checksum byte is wrong. -/
def badAck : List Byte := ackFrame.take 9 ++ [0xC2]

/-- R153, H7: the first transmit is the S1 frame's 17 bytes to 0x84, and it is the only call when it fails. Then a state for
each clause: the first delay not over in time, the first receive failed, the first acknowledgment with a wrong checksum, and
the same for the second round. -/
theorem witness_InitCallsTheTransportInOrder :
    nextAnd (issue State.reset (.driverInit goodConfig { good with sent := .failed } good))
      (fun t => t.calls == [.transmit 0x84 s1Frame (some 100)]) = true ∧
    initEnds eventConfig { good with settled := false } good 2 .timeout = true ∧
    initEnds goodConfig { good with got := .failed } good 3 .transportError = true ∧
    initEnds goodConfig (goodRound badAck) good 3 .checksumError = true ∧
    initEnds goodConfig good { good with sent := .timedOut } 4 .timeout = true ∧
    initEnds eventConfig good { good with settled := false } 5 .timeout = true ∧
    initEnds goodConfig good (goodRound nakFrame) 6 .error = true := by decide

/-- P2 with a lapsed flag that a blocking delay does not read, a receive that times out, another command's Ack (VA2); and a
free bound buffer that holds the ten bytes. -/
theorem witness_InitReturnsTheFirstFailuresStatus :
    initEnds goodConfig { good with settled := false } good 6 .ok = true ∧
    initEnds goodConfig { good with got := .timedOut, ack := [] } good 3 .timeout = true ∧
    initEnds goodConfig (goodRound [0xB5, 0x62, 5, 1, 2, 0, 6, 1, 0x0F, 0x38]) good 3 .error = true ∧
    State.reset.dev.txBusy = false ∧ State.reset.dev.rxAwaited = none ∧ good.ack.length = 10 ∧
    (rxHolds badAck).portFree true = true ∧ bytesAt (rxHolds badAck).buf 0 10 = badAck := by decide

/-- `init` that is accepted and then fails its first transmit. -/
theorem witness_BusAddressIsShiftedLeft :
    nextAnd (issue State.reset (.driverInit goodConfig { goodRound [] with sent := .failed } (goodRound [])))
      (fun t => t.dev.result == some .transportError) = true := by decide

/-- P2's premises: the acknowledgments are the spec's ten bytes. -/
theorem witness_InitSucceedsOnGoodAcks : goodConfig.hasTransmit = true ∧ goodConfig.hasReceive = true ∧ goodConfig.hasDelay = true ∧
    State.reset.dev.txBusy = false ∧ State.reset.dev.rxAwaited = none ∧ (goodRound ackFrame).sent = .done ∧
    (goodRound ackFrame).settled = true ∧ (goodRound ackFrame).got = .done ∧ ackFrame = frame Config.standard 5 1 [6, 0x8A] ∧
    initEnds goodConfig good good 6 .ok = true := by decide

/-- P2, variant B. -/
theorem witness_InitAbortsOnTheFirstNack : State.reset.cfg.wf = true ∧ nakFrame = frame Config.standard 5 0 [6, 0x8A] ∧
    (goodRound nakFrame).ack = nakFrame := by decide

theorem witness_OnlyInitChangesTheTransport :
    nextAnd (step { State.reset with agenda := [.bind .rx] }) (fun t => t.bound == .rx) = true ∧
    (∀ c h1 h2, HostAct.bind .rx ≠ .driverInit c h1 h2) ∧ ∀ k, HostAct.bind .rx ≠ .use k :=
  ⟨by decide, by simp, by simp⟩

/-- Reset with a second Device, ready and with other buffer contents. -/
def twoDevices : State :=
  { State.reset with others := [{ tx := [], rx := Memory.writeBytes [] 0 pollFrame, dev := readyDev .eventDriven }] }

/-- A call that runs in the hand of the second Device, and not in the first's. -/
theorem witness_DevicesDoNotInteract :
    (∀ k, HostAct.driverCommand .readNavPvt .done ≠ .use k) ∧ HostAct.driverCommand .readNavPvt .done ≠ .construct ∧
    nextAnd (issue twoDevices (.driverCommand .readNavPvt .done)) (fun t => t.dev.result == some .invalidParam) = true ∧
    nextAnd (andThen (issue twoDevices (.use 0)) fun s => issue s (.driverCommand .readNavPvt .done))
      (fun t => t.dev.result == some .ok && t.others == [Instance.zero]) = true := ⟨by simp, by simp, by decide, by decide⟩

theorem witness_DevicesKeepTheirOwnState : (∃ i, twoDevices.others[0]? = some i) ∧ twoDevices.others.length ≤ 1 :=
  ⟨⟨_, rfl⟩, by decide⟩

theorem witness_HostWritesOneByte : (State.reset.buffer .tx).wf = true ∧ State.reset.busy .tx = false ∧
    127 < State.reset.cfg.bufferCapacity ∧ State.reset.cfg.bufferCapacity ≤ 128 := by decide

end Sys2Proof.Tests
end

section
/-!
Proofs about the parameters of the block (spec/00_scope.md).
-/
namespace Sys2Proof.Proofs
open Sys2Proof.Machine

/-- Settles O15: the capacity's bounds are laws of the model, and both facts about MAX_PAYLOAD follow from
MAX_PAYLOAD + OVERHEAD = BUFFER_CAPACITY, the least capacity 20 leaving 12 bytes. -/
theorem capacityBounds : Obligations.CapacityBounds := by
  intro c
  have hge := bufferCapacity_ge c
  have hsum := maxPayload_eq c
  exact ⟨hge, bufferCapacity_le c, by omega, by omega⟩

end Sys2Proof.Proofs
end

section
/-!
Proofs about the state (spec/10_state.md): what one entry of the agenda can do, said once for each entry that the laws of
Sys2Proof/Laws do not cover; the invariant of every update; and the obligations that follow.
-/
namespace Sys2Proof.Machine

/-! ### What a step, a word and an operation can do -/

theorem step_of_agenda_nil {s : State} (h : s.agenda = []) : step s = .next s := by simp only [step, h]

theorem step_of_agenda_cons {s : State} {a : HostAct} {rest : List HostAct} (h : s.agenda = a :: rest) :
    step s = perform a { s with agenda := rest } := by simp only [step, h]

/-- What a step that answers a next state did: nothing, or the whole of the agenda's first entry. -/
theorem step_next {s t : State} (h : step s = .next t) :
    t = s ∨ ∃ a rest, perform a { s with agenda := rest } = .next t := by
  cases ha : s.agenda with
  | nil =>
    rw [step_of_agenda_nil ha] at h
    cases h
    exact .inl rfl
  | cons a rest =>
    rw [step_of_agenda_cons ha] at h
    exact .inr ⟨a, rest, h⟩

/-- A word that decodes runs as the instruction it decodes to. -/
theorem runWord_of_decode_ok {p : PortWord} {s : State} {i : Instr} (h : decode s.cfg p = .ok i) :
    runWord p s = exec i s := by
  cases p with
  | request w => cases h; rfl
  | wire bytes =>
    have hf : decodeFrame s.cfg bytes = .ok i := h
    simp only [runWord, hf]

/-- Bytes that are no frame are received as they come. -/
theorem runWord_of_decode_error {bytes : List Byte} {s : State} {e : FrameError}
    (h : decode s.cfg (.wire bytes) = .error e) : runWord (.wire bytes) s = receiveBytes bytes s := by
  have hf : decodeFrame s.cfg bytes = .error e := h
  simp only [runWord, hf]

theorem decodeTableWord_eq_some {nbits w : Nat} {i : Instr} (h : decodeTableWord nbits w = some i) :
    decode Config.standard (tableWord nbits w) = .ok i := by
  unfold decodeTableWord at h
  split at h
  · cases h; assumption
  · cases h

/-- A frame kind's meaning is the arrival of its bytes (log 3). -/
theorem exec_of_frame {i : Instr} (h : isRequest i = false) (s : State) :
    exec i s = receiveBytes (frameBytes s.cfg i) s := by
  cases i with
  | ubxHeader => rfl
  | ubxCfgValset => rfl
  | ubxAckAck => rfl
  | ubxAckNak => rfl
  | ubxNavPvtPoll => rfl
  | ubxNavPvt => rfl
  | ubxNavStatus => rfl
  | _ => cases h

/-- The size R104's routine answers: `16 + w` where it writes, 0 where it does not. -/
theorem prepareConfigSet_resp (bufp : Bool) (key : Word) (valp : Bool) (val : Word) (w : Nat) (s : State) :
    (prepareConfigSet bufp key valp val w s).resp =
      some (.size (if bufp = false ∨ valp = false ∨ 4 < w then 0 else BitVec.ofNat 16 (16 + w))) := by
  rcases prepareConfigSet_cases bufp key valp val w s with ⟨hc, e⟩ | ⟨rfl, rfl, hw, e⟩
  · rw [e, if_pos hc]
    rfl
  · rw [e, if_neg (by simpa using hw)]
    simp

/-- The bound buffer R104's routine leaves: the frame at offset 0 where it writes, nothing moved where it does not. -/
theorem prepareConfigSet_buf (bufp : Bool) (key : Word) (valp : Bool) (val : Word) (w : Nat) (s : State) :
    (prepareConfigSet bufp key valp val w s).buf =
      if bufp = false ∨ valp = false ∨ 4 < w then s.buf else s.buf.writeBytes 0 (configSetFrame s.cfg key val w) := by
  rcases prepareConfigSet_cases bufp key valp val w s with ⟨hc, e⟩ | ⟨rfl, rfl, hw, e⟩
  · rw [e, if_pos hc, respond_buf]
  · rw [e, if_neg (by simpa using hw), emit_buf]

/-- R104's routine answers the same and leaves the same bound buffer in states with the same parameters and bound buffer. -/
theorem prepareConfigSet_congr {s s' : State} (hcfg : s.cfg = s'.cfg) (hbuf : s.buf = s'.buf) (bufp : Bool) (key : Word)
    (valp : Bool) (val : Word) (w : Nat) :
    (prepareConfigSet bufp key valp val w s').resp = (prepareConfigSet bufp key valp val w s).resp ∧
    (prepareConfigSet bufp key valp val w s').buf = (prepareConfigSet bufp key valp val w s).buf := by
  simp only [prepareConfigSet_resp, prepareConfigSet_buf, hcfg, hbuf, and_self]

/-- All that a word can do to the machine: an answer and nothing else, an encoder's frame of 20 bytes at the most, or
bytes into the receive buffer where the transport may store them. -/
inductive WordEffect (s : State) : State → Prop where
  | answered (r : Response) : WordEffect s (s.respond r)
  | emitted (bytes : List Byte) (length_le : bytes.length ≤ 20) : WordEffect s (s.emit bytes)
  | arrived (bytes : List Byte) (accepted : s.accepts bytes.length = true) : WordEffect s (s.received bytes)

theorem prepareConfigSet_effect (bufp : Bool) (key : Word) (valp : Bool) (val : Word) (w : Nat) (s : State) :
    WordEffect s (prepareConfigSet bufp key valp val w s) := by
  rcases prepareConfigSet_cases bufp key valp val w s with ⟨-, e⟩ | ⟨-, -, hw, e⟩
  · exact e ▸ .answered _
  · exact e ▸ .emitted _ (by rw [configSetFrame_length]; omega)

theorem receiveBytes_effect {bytes : List Byte} {s t : State} (h : receiveBytes bytes s = .next t) :
    WordEffect s t := by
  obtain ⟨ha, rfl⟩ := receiveBytes_next.1 h
  exact .arrived bytes ha

theorem exec_effect {i : Instr} {s t : State} (h : exec i s = .next t) : WordEffect s t := by
  cases i with
  | prepcmd bufp cls id =>
    obtain ⟨-, rfl⟩ := exec_prepcmd_next.1 h
    cases bufp
    · exact .answered _
    · exact .emitted _ (by simp)
  | prepcfg => obtain ⟨-, rfl⟩ := exec_prepcfg_next.1 h; exact prepareConfigSet_effect ..
  | prepcfgU1 => obtain ⟨-, rfl⟩ := exec_prepcfgU1_next.1 h; exact prepareConfigSet_effect ..
  | prepcfgU2 => obtain ⟨-, rfl⟩ := exec_prepcfgU2_next.1 h; exact prepareConfigSet_effect ..
  | prepcfgU4 => obtain ⟨-, rfl⟩ := exec_prepcfgU4_next.1 h; exact prepareConfigSet_effect ..
  | cksum => obtain ⟨-, -, -, rfl⟩ := execCksum_next.1 h; exact .answered _
  | valpkt => obtain ⟨-, rfl⟩ := exec_valpkt_next.1 h; exact .answered _
  | valack => obtain ⟨-, rfl⟩ := exec_valack_next.1 h; exact .answered _
  | _ => exact receiveBytes_effect h

theorem runWord_effect {p : PortWord} {s t : State} (h : runWord p s = .next t) : WordEffect s t := by
  cases hd : decode s.cfg p with
  | ok i => rw [runWord_of_decode_ok hd] at h; exact exec_effect h
  | error e =>
    cases p with
    | request w => cases hd
    | wire bytes => rw [runWord_of_decode_error hd] at h; exact receiveBytes_effect h

/-! ### What the host's other entries can do -/

theorem hostPoke_next {b : Buffer} {offset : Nat} {v : Byte} {s t : State} (h : hostPoke b offset v s = .next t) :
    offset < s.cfg.bufferCapacity ∧ t = s.setBuffer b ((s.buffer b).write offset v) := by
  unfold hostPoke at h
  split at h
  · cases h
  split at h
  · cases h
  next hc => cases h; exact ⟨Nat.lt_of_not_le hc, rfl⟩

/-- A receive that lapses stores no more bytes than were awaited, and nothing where none was in flight (log 19). -/
theorem receiveLapsed_cases (bytes : List Byte) (s : State) :
    receiveLapsed bytes s = s ∨
    ∃ n, s.dev.rxAwaited = some n ∧ receiveLapsed bytes s = s.received (bytes.take n) := by
  cases h : s.dev.rxAwaited with
  | none => exact .inl (by simp only [receiveLapsed, h])
  | some n => exact .inr ⟨n, rfl, by simp only [receiveLapsed, h]⟩

/-- The host turns only to a Device it has; the one that was in hand takes its place. -/
theorem useDevice_next {k : Nat} {s t : State} (h : useDevice k s = .next t) :
    ∃ i ∈ s.others, t = { s with tx := i.tx, rx := i.rx, dev := i.dev, others := s.others.set k s.inHand } := by
  unfold useDevice at h
  split at h
  next i hi => cases h; exact ⟨i, List.mem_of_getElem? hi, rfl⟩
  next => cases h

/-! ### The parameters stay -/

theorem WordEffect.cfg {s t : State} (e : WordEffect s t) : t.cfg = s.cfg := by
  cases e with
  | answered r => exact respond_cfg s r
  | emitted bytes => exact emit_cfg s bytes
  | arrived bytes => exact received_cfg s bytes

theorem driverInit_cfg {c : DriverConfig} {h1 h2 : Handshake} {s t : State} (h : driverInit c h1 h2 s = .next t) :
    t.cfg = s.cfg := by
  rcases driverInit_next h with ⟨-, rfl⟩ | ⟨-, ⟨u, _, _, _, -, rfl, -, e⟩ | ⟨v, u, _, _, _, -, rfl, -, e1, -, e2⟩ |
    ⟨v, u, rfl, e1, -, e2, -⟩⟩
  · rfl
  · exact e.cfg
  · exact e2.cfg.trans e1.cfg
  · exact e2.cfg.trans e1.cfg

theorem perform_cfg {a : HostAct} {s t : State} (h : perform a s = .next t) : t.cfg = s.cfg := by
  cases a with
  | word p => exact (runWord_effect h).cfg
  | bind b => cases h; rfl
  | poke b offset v => obtain ⟨-, rfl⟩ := hostPoke_next h; exact setBuffer_cfg ..
  | transmitEnded => cases h; rfl
  | receiveLapsed bytes =>
    cases h
    rcases receiveLapsed_cases bytes s with e | ⟨n, -, e⟩ <;> rw [e]
    rfl
  | delayElapsed => cases h; rfl
  | construct => cases h; rfl
  | use k => obtain ⟨i, -, rfl⟩ := useDevice_next h; rfl
  | driverInit c h1 h2 => exact driverInit_cfg h
  | driverCommand c r =>
    rcases driverCommand_next h with ⟨-, rfl⟩ | ⟨-, -, -, rfl⟩
    · rfl
    · simp
  | driverRead r bytes =>
    rcases driverRead_next h with rfl | ⟨-, rfl | rfl | ⟨-, rfl⟩⟩ <;> rfl
  | driverValidate c =>
    rcases driverValidate_next h with rfl | ⟨st, rfl⟩ <;> rfl

/-! ### The invariant, update by update -/

/-- A constructed Device keeps the invariant of one Device: its buffers are empty and its record is zero (R31, R150). -/
theorem Instance.Inv.zero (c : Config) : Instance.zero.Inv c where
  tx_wf := rfl
  tx_below := rfl
  rx_wf := rfl
  rx_below := rfl
  txLen_le := Nat.zero_le _
  rxLen_le := Nat.zero_le _
  awaited_le := nofun
  transport_complete := nofun
  command_supported := .inl rfl

section
variable {s : State} (h : s.Inv)
include h

theorem State.Inv.withAgenda (l : List HostAct) : State.Inv { s with agenda := l } := ⟨h.inHand, h.others⟩

theorem State.Inv.respond (r : Response) : (s.respond r).Inv := ⟨h.inHand, h.others⟩

theorem State.Inv.bindTo (b : Buffer) : (s.bindTo b).Inv := ⟨h.inHand, h.others⟩

theorem State.Inv.asks (call : TransportCall) : (s.asks call).Inv := ⟨h.inHand, h.others⟩

theorem State.Inv.returnStatus (st : Status) : (s.returnStatus st).Inv := ⟨{ h.inHand with }, h.others⟩

theorem State.Inv.withDelayDone (b : Bool) : (s.withDelayDone b).Inv := ⟨{ h.inHand with }, h.others⟩

theorem State.Inv.withTxBusy (b : Bool) : (s.withTxBusy b).Inv := ⟨{ h.inHand with }, h.others⟩

theorem State.Inv.withTxLen {n : Half} (hn : n.toNat ≤ s.cfg.bufferCapacity) : (s.withTxLen n).Inv :=
  ⟨{ h.inHand with txLen_le := hn }, h.others⟩

theorem State.Inv.withAwaited {n : Nat} (hn : n ≤ s.cfg.bufferCapacity) : (s.withAwaited (some n)).Inv :=
  ⟨{ h.inHand with awaited_le := fun _ hm => Option.some.inj hm ▸ hn }, h.others⟩

theorem State.Inv.withReadNavPvt : (s.withCommand .readNavPvt).Inv :=
  ⟨{ h.inHand with command_supported := .inr rfl }, h.others⟩

theorem State.Inv.withInitialized {b : Bool} (hb : b = true → s.dev.transport.complete = true) :
    (s.withInitialized b).Inv :=
  ⟨{ h.inHand with transport_complete := hb }, h.others⟩

theorem State.Inv.zeroed (t : Transport) : (s.zeroed t).Inv :=
  ⟨{ Instance.Inv.zero s.cfg with transport_complete := nofun }, h.others⟩

theorem State.Inv.buffer_wf (b : Buffer) : (s.buffer b).wf = true := by
  cases b
  · exact h.inHand.tx_wf
  · exact h.inHand.rx_wf

theorem State.Inv.buffer_below (b : Buffer) : (s.buffer b).below s.cfg.bufferCapacity = true := by
  cases b
  · exact h.inHand.tx_below
  · exact h.inHand.rx_below

theorem State.Inv.setBuffer (b : Buffer) {m : Memory} (hw : m.wf = true) (hb : m.below s.cfg.bufferCapacity = true) :
    (s.setBuffer b m).Inv := by
  cases b
  · exact ⟨{ h.inHand with tx_wf := hw, tx_below := hb }, h.others⟩
  · exact ⟨{ h.inHand with rx_wf := hw, rx_below := hb }, h.others⟩

/-- An encoder's frame keeps the invariant, as every capacity has room for it (R10). -/
theorem State.Inv.emit {bytes : List Byte} (hl : bytes.length ≤ 20) : (s.emit bytes).Inv := by
  have hroom : 0 + bytes.length ≤ s.cfg.bufferCapacity := by
    have := bufferCapacity_ge s.cfg
    omega
  exact (h.setBuffer s.bound (writeBytes_wf (h.buffer_wf _) 0 bytes)
    (writeBytes_below (h.buffer_below _) hroom)).respond _

theorem State.Inv.received {bytes : List Byte} (hl : bytes.length ≤ s.cfg.bufferCapacity) : (s.received bytes).Inv where
  inHand := { h.inHand with
    rx_wf := writeBytes_wf h.inHand.rx_wf 0 bytes
    rx_below := writeBytes_below h.inHand.rx_below (by omega)
    rxLen_le := (Nat.mod_le _ _).trans hl
    awaited_le := nofun }
  others := h.others

/-- A receive cut short at `n` bytes keeps the invariant where the buffer has room for `n`. -/
theorem State.Inv.received_take {n : Nat} (hn : n ≤ s.cfg.bufferCapacity) (bytes : List Byte) :
    (s.received (bytes.take n)).Inv :=
  h.received ((List.length_take_le n bytes).trans hn)

theorem State.Inv.construct : s.construct.Inv where
  inHand := h.inHand
  others i hi := by
    rcases List.mem_append.1 hi with hi | hi
    · exact h.others i hi
    · exact List.mem_singleton.1 hi ▸ Instance.Inv.zero _

/-- The host turns to another Device: one of the others comes into the hand, and the one in the hand joins them. -/
theorem State.Inv.exchange {i : Instance} (hi : i ∈ s.others) (k : Nat) :
    State.Inv { s with tx := i.tx, rx := i.rx, dev := i.dev, others := s.others.set k s.inHand } where
  inHand := h.others i hi
  others j hj := by
    rcases List.mem_or_eq_of_mem_set hj with hj | rfl
    · exact h.others j hj
    · exact h.inHand

end

theorem WordEffect.inv {s t : State} (e : WordEffect s t) (h : s.Inv) : t.Inv := by
  cases e with
  | answered r => exact h.respond r
  | emitted bytes hl => exact h.emit hl
  | arrived bytes ha =>
    simp only [State.accepts, Bool.and_eq_true, decide_eq_true_eq] at ha
    exact h.received ha.2

/-- A round of `init` keeps the invariant, however it ends: a catalogue key's frame is 20 bytes at the most and ten come
back. -/
theorem RoundEffect.inv {item : ConfigItem} {val : Word} {bs : List Byte} {n : Nat} {s u : State}
    (e : RoundEffect item val bs n s u) (h : s.Inv) : u.Inv := by
  have hcap := bufferCapacity_ge s.cfg
  have hwidth := (width_le item.width).2
  have hcame := e.came
  refine ⟨?_, by rw [e.others, e.cfg]; exact h.others⟩
  rw [e.cfg]
  constructor <;> simp only [inHand_tx, inHand_rx, inHand_dev]
  case tx_wf => rw [e.tx]; exact writeBytes_wf h.inHand.tx_wf _ _
  case tx_below => rw [e.tx]; exact writeBytes_below h.inHand.tx_below (by rw [itemFrame_length]; omega)
  case rx_wf => rw [e.rx]; exact writeBytes_wf h.inHand.rx_wf _ _
  case rx_below => rw [e.rx]; exact writeBytes_below h.inHand.rx_below (by omega)
  case txLen_le => rw [e.txLen, BitVec.toNat_ofNat]; omega
  case rxLen_le =>
    rcases e.rxLen with hr | hr
    · rw [hr]; exact h.inHand.rxLen_le
    · rw [hr, BitVec.toNat_ofNat]; omega
  case awaited_le =>
    rcases e.awaited with ha | ha
    · rw [ha]; exact h.inHand.awaited_le
    · rw [ha]; exact nofun
  case transport_complete => rw [e.initialized, e.transport]; exact h.inHand.transport_complete
  case command_supported => rw [e.currentCommand]; exact h.inHand.command_supported

/-- `init` opens the gate only after both rounds, which leave the complete transport it was given (R152). -/
theorem driverInit_inv {c : DriverConfig} {h1 h2 : Handshake} {s t : State} (ht : driverInit c h1 h2 s = .next t)
    (h : s.Inv) : t.Inv := by
  have hz := h.zeroed c.toTransport
  rcases driverInit_next ht with ⟨-, rfl⟩ | ⟨hc, ⟨u, _, _, _, -, rfl, -, e⟩ | ⟨v, u, _, _, _, -, rfl, -, e1, -, e2⟩ |
    ⟨v, u, rfl, e1, -, e2, -⟩⟩
  · exact (h.withInitialized (b := false) nofun).returnStatus _
  · exact (e.inv hz).returnStatus _
  · exact (e2.inv (e1.inv hz)).returnStatus _
  · have htr : u.dev.transport = c.toTransport := e2.transport.trans e1.transport
    exact ((e2.inv (e1.inv hz)).withInitialized fun _ => htr ▸ hc).returnStatus _

theorem driverCommand_inv {c : CommandType} {r : BusResult} {s t : State} (ht : driverCommand c r s = .next t)
    (h : s.Inv) : t.Inv := by
  rcases driverCommand_next ht with ⟨-, rfl⟩ | ⟨-, -, -, rfl⟩
  · exact h.returnStatus _
  · have hsent : (((s.bindTo .tx).emit (commandFrame s.cfg s.cfg.clsNav s.cfg.idNavPvt)).withTxLen 8).Inv := by
      refine ((h.bindTo .tx).emit (by simp)).withTxLen ?_
      have hcap := bufferCapacity_ge s.cfg
      rw [emit_cfg, bindTo_cfg]
      exact Nat.le_trans (by decide) hcap
    exact ((hsent.withReadNavPvt.asks _).withTxBusy _).returnStatus _

theorem driverRead_inv {r : BusResult} {bytes : List Byte} {s t : State} (ht : driverRead r bytes s = .next t)
    (h : s.Inv) : t.Inv := by
  rcases driverRead_next ht with rfl | ⟨hcap, rfl | rfl | ⟨ha, rfl⟩⟩
  · exact h.returnStatus _
  · exact ((h.asks _).withAwaited hcap).returnStatus _
  · exact ((h.asks _).received_take hcap bytes).returnStatus _
  · exact ((WordEffect.arrived (s := s.asks _) bytes ha).inv (h.asks _)).returnStatus _

theorem perform_inv {a : HostAct} {s t : State} (ht : perform a s = .next t) (h : s.Inv) : t.Inv := by
  cases a with
  | word p => exact (runWord_effect ht).inv h
  | bind b => cases ht; exact h.bindTo b
  | poke b offset v =>
    obtain ⟨hlt, rfl⟩ := hostPoke_next ht
    exact h.setBuffer b (write_wf (h.buffer_wf b) offset v) (write_below (h.buffer_below b) hlt v)
  | transmitEnded => cases ht; exact h.withTxBusy false
  | receiveLapsed bytes =>
    cases ht
    rcases receiveLapsed_cases bytes s with e | ⟨n, hn, e⟩ <;> rw [e]
    · exact h
    · exact h.received_take (h.inHand.awaited_le n hn) bytes
  | delayElapsed => cases ht; exact h.withDelayDone true
  | construct => cases ht; exact h.construct
  | use k => obtain ⟨i, hi, rfl⟩ := useDevice_next ht; exact h.exchange hi k
  | driverInit c h1 h2 => exact driverInit_inv ht h
  | driverCommand c r => exact driverCommand_inv ht h
  | driverRead r bytes => exact driverRead_inv ht h
  | driverValidate c =>
    rcases driverValidate_next ht with rfl | ⟨st, rfl⟩
    · exact h.returnStatus _
    · exact ((h.bindTo .rx).respond _).returnStatus _

end Sys2Proof.Machine

namespace Sys2Proof.Proofs
open Sys2Proof.Machine

/-! ### The obligations -/

/-- Settles O3: with nothing asked the state stays, and every entry of the agenda is a chain of updates each of which keeps
the invariant; that the lengths stay within BUFFER_CAPACITY turns on the frame an encoder writes being 20 bytes at most and
on an arrival being stored only where the buffer has room. -/
theorem stepKeepsInvariant : Obligations.StepKeepsInvariant := by
  intro s t h ht
  rcases step_next ht with rfl | ⟨a, rest, hp⟩
  · exact h
  · exact perform_inv hp (h.withAgenda rest)

/-- Settles O5: no entry of the agenda is an update of the parameters. -/
theorem stepKeepsParameters : Obligations.StepKeepsParameters := by
  intro s t ht
  rcases step_next ht with rfl | ⟨a, rest, hp⟩
  · rfl
  · exact perform_cfg (s := { s with agenda := rest }) hp

/-- Settles O19: the answer and the bound buffer of each operation, as the laws of the operations write them, mention the
parameters and the bound buffer of the state and nothing else of it. -/
theorem blockIsStateless : Obligations.BlockIsStateless := by
  intro i s s' t t' hi hcfg hbuf h h'
  cases i with
  | prepcmd bufp cls id =>
    obtain ⟨-, rfl⟩ := exec_prepcmd_next.1 h
    obtain ⟨-, rfl⟩ := exec_prepcmd_next.1 h'
    cases bufp <;> simp [hcfg, hbuf]
  | prepcfg bufp key valp val vw =>
    obtain ⟨-, rfl⟩ := exec_prepcfg_next.1 h
    obtain ⟨-, rfl⟩ := exec_prepcfg_next.1 h'
    exact prepareConfigSet_congr hcfg hbuf ..
  | prepcfgU1 bufp key val =>
    obtain ⟨-, rfl⟩ := exec_prepcfgU1_next.1 h
    obtain ⟨-, rfl⟩ := exec_prepcfgU1_next.1 h'
    exact prepareConfigSet_congr hcfg hbuf ..
  | prepcfgU2 bufp key val =>
    obtain ⟨-, rfl⟩ := exec_prepcfgU2_next.1 h
    obtain ⟨-, rfl⟩ := exec_prepcfgU2_next.1 h'
    exact prepareConfigSet_congr hcfg hbuf ..
  | prepcfgU4 bufp key val =>
    obtain ⟨-, rfl⟩ := exec_prepcfgU4_next.1 h
    obtain ⟨-, rfl⟩ := exec_prepcfgU4_next.1 h'
    exact prepareConfigSet_congr hcfg hbuf ..
  | cksum bufp ofs count =>
    obtain ⟨-, -, -, rfl⟩ := execCksum_next.1 h
    obtain ⟨-, -, -, rfl⟩ := execCksum_next.1 h'
    simp [hbuf]
  | valpkt bufp size cls id =>
    obtain ⟨-, rfl⟩ := exec_valpkt_next.1 h
    obtain ⟨-, rfl⟩ := exec_valpkt_next.1 h'
    simp [hcfg, hbuf]
  | valack bufp size cls id =>
    obtain ⟨-, rfl⟩ := exec_valack_next.1 h
    obtain ⟨-, rfl⟩ := exec_valack_next.1 h'
    simp [hcfg, hbuf]
  | _ => cases hi

/-- A validator's four statuses (R172). -/
def IsVerdict (st : Status) : Prop := st = .ok ∨ st = .error ∨ st = .invalidParam ∨ st = .checksumError

theorem validatePacket_isVerdict (c : Config) (bufp : Bool) (buf : Memory) (size : Half) (cls id : Byte) :
    IsVerdict (validatePacket c bufp buf size cls id) := by
  cases bufp with
  | false => exact .inr (.inr (.inl rfl))
  | true =>
    rcases validatePacket_cases c buf size cls id with ⟨-, e⟩ | ⟨-, -, e⟩ | ⟨-, -, e⟩ <;> rw [e]
    · exact .inr (.inl rfl)
    · exact .inr (.inr (.inr rfl))
    · exact .inl rfl

/-- VALACK answers Ok, Error, or what VALPKT answered (R135). -/
theorem validateAck_isVerdict (c : Config) (bufp : Bool) (buf : Memory) (size : Half) (cls id : Byte) :
    IsVerdict (validateAck c bufp buf size cls id) := by
  simp only [validateAck]
  split
  · split
    · exact .inr (.inl rfl)
    · exact validatePacket_isVerdict ..
  split
  · exact .inr (.inl rfl)
  · exact .inl rfl

/-- Settles O20: each answer is read off the operation's own law, and a frame's arrival is a receive, which leaves the
response alone. -/
theorem eachOperationAnswersItsOwnResult : Obligations.EachOperationAnswersItsOwnResult := by
  refine ⟨?_, ?_, ?_, ?_, ?_, ?_, ?_, ?_⟩
  · intro s t bufp cls id h
    obtain ⟨-, rfl⟩ := exec_prepcmd_next.1 h
    cases bufp <;> simp
  · intro s t bufp key valp val vw h
    obtain ⟨-, rfl⟩ := exec_prepcfg_next.1 h
    exact ⟨_, prepareConfigSet_resp ..⟩
  · intro s t bufp key val h
    obtain ⟨-, rfl⟩ := exec_prepcfgU1_next.1 h
    cases bufp <;> simp [prepareConfigSet_resp]
  · intro s t bufp key val h
    obtain ⟨-, rfl⟩ := exec_prepcfgU2_next.1 h
    cases bufp <;> simp [prepareConfigSet_resp]
  · intro s t bufp key val h
    obtain ⟨-, rfl⟩ := exec_prepcfgU4_next.1 h
    cases bufp <;> simp [prepareConfigSet_resp]
  · intro s t bufp ofs count h
    obtain ⟨-, -, -, rfl⟩ := execCksum_next.1 h
    exact ⟨_, _, rfl⟩
  · rintro s t bufp size cls id (h | h)
    · obtain ⟨-, rfl⟩ := exec_valpkt_next.1 h
      exact ⟨_, rfl, validatePacket_isVerdict ..⟩
    · obtain ⟨-, rfl⟩ := exec_valack_next.1 h
      exact ⟨_, rfl, validateAck_isVerdict ..⟩
  · intro i s t hi h
    rw [exec_of_frame hi] at h
    obtain ⟨-, rfl⟩ := receiveBytes_next.1 h
    rfl

/-- Settles O1: reset is defined by these values, and a buffer with nothing written reads 0 at every offset. -/
theorem resetIsIdleWithZeroedRecord : Obligations.ResetIsIdleWithZeroedRecord :=
  fun _ => ⟨rfl, rfl, rfl, rfl, rfl, rfl, fun _ => rfl, fun _ => rfl, rfl⟩

/-- Settles O2: the Device in hand is a constructed one, and there is no other. -/
theorem resetMeetsInvariant : Obligations.ResetMeetsInvariant :=
  fun c => ⟨Instance.Inv.zero c, nofun⟩

/-- Settles O4: the step of a word is its run, and a run is `exec` of what the word decodes to; `withFetchWord` puts a word
there and the step takes it off again. -/
theorem stepRunsTheDecodedWord : Obligations.StepRunsTheDecodedWord := by
  refine ⟨?_, ?_, fun _ => step_of_agenda_nil, ?_⟩
  · intro s p rest i ha hd
    rw [step_of_agenda_cons ha]
    exact runWord_of_decode_ok hd
  · intro s bytes rest e ha hd
    rw [step_of_agenda_cons ha]
    exact runWord_of_decode_error hd
  · intro s nbits w i hc hd
    rw [step_of_agenda_cons (s := s.withFetchWord nbits w) rfl]
    exact runWord_of_decode_ok (s := s) (hc ▸ decodeTableWord_eq_some hd)

/-- Settles O12: OP reads back as the operation's code, and each operand as the field it was packed from. -/
theorem requestFieldsReadAsListed : Obligations.RequestFieldsReadAsListed := by
  intro bufp size cls id key valp val vw ofs count
  refine ⟨?_, ?_, ?_, ?_, ?_, ?_, ?_, ?_⟩ <;> simp [decodeRequest]

end Sys2Proof.Proofs
end

section
/-!
Proofs about the buffer memory (spec/20_memory.md): what a wide access reads and writes, what an operation writes and a
validator reads, and what a transfer in flight stops.
-/
namespace Sys2Proof.Machine

/-! ### Where an operation completes and what stops it -/

theorem onPort_completes {bufp : Bool} {s a : State} : (∃ t, onPort bufp s a = .next t) ↔ s.portFree bufp = true := by
  simp only [onPort_next, exists_and_left, exists_eq, and_true]

theorem receiveBytes_completes {bytes : List Byte} {s : State} :
    (∃ t, receiveBytes bytes s = .next t) ↔ s.accepts bytes.length = true := by
  simp only [receiveBytes_next, exists_and_left, exists_eq, and_true]

theorem execCksum_completes {bufp : Bool} {ofs count : Half} {s : State} :
    (∃ t, execCksum bufp ofs count s = .next t) ↔
      bufp = true ∧ ofs.toNat + count.toNat ≤ s.cfg.bufferCapacity ∧ s.portFree bufp = true := by
  simp only [execCksum_next, exists_and_left, exists_eq, and_true]

/-- A frame kind has a meaning exactly where the transport may store its bytes. -/
theorem hasMeaning_of_frame {i : Instr} (h : isRequest i = false) (s : State) :
    hasMeaning i s = s.accepts (frameBytes s.cfg i).length := by
  cases i with
  | ubxHeader => rfl
  | ubxCfgValset => rfl
  | ubxAckAck => rfl
  | ubxAckNak => rfl
  | ubxNavPvtPoll => rfl
  | ubxNavPvt => rfl
  | ubxNavStatus => rfl
  | _ => cases h

theorem onPort_of_busy {s : State} (h : s.busy s.bound = true) (a : State) :
    onPort true s a = .refused .bufferInFlight := by simp [onPort, h]

theorem execCksum_of_busy {ofs count : Half} {s : State} (h : s.busy s.bound = true)
    (hin : ofs.toNat + count.toNat ≤ s.cfg.bufferCapacity) :
    execCksum true ofs count s = .refused .bufferInFlight := by
  rw [execCksum, if_neg (by simp), if_neg (Nat.not_lt.2 hin)]
  exact onPort_of_busy h _

theorem hostPoke_of_busy {s : State} {b : Buffer} (h : s.busy b = true) (offset : Nat) (v : Byte) :
    hostPoke b offset v s = .refused .bufferInFlight := if_pos h

theorem hostPoke_of_lt {s : State} {b : Buffer} (hb : s.busy b = false) {offset : Nat}
    (h : offset < s.cfg.bufferCapacity) (v : Byte) :
    hostPoke b offset v s = .next (s.setBuffer b ((s.buffer b).write offset v)) := by
  rw [hostPoke, if_neg (by simp [hb]), if_neg (Nat.not_le.2 h)]

theorem hostPoke_of_ge {s : State} {b : Buffer} (hb : s.busy b = false) {offset : Nat}
    (h : s.cfg.bufferCapacity ≤ offset) (v : Byte) : hostPoke b offset v s = .fault .offsetOutsideBuffer := by
  rw [hostPoke, if_neg (by simp [hb]), if_pos h]

theorem driverInit_of_busy {s : State} {b : Buffer} {c : DriverConfig} (h : s.busy b = true)
    (hc : c.toTransport.complete = true) (h1 h2 : Handshake) : driverInit c h1 h2 s = .refused .bufferInFlight := by
  have hbusy : (s.busy .tx || s.busy .rx) = true := by
    rw [Bool.or_eq_true]
    cases b
    · exact .inl h
    · exact .inr h
  rw [driverInit, if_neg (by simp [hc]), if_pos hbusy]

theorem driverCommand_of_busy {s : State} (h : s.dev.txBusy = true) (hi : s.dev.initialized = true) (r : BusResult) :
    driverCommand .readNavPvt r s = .refused .bufferInFlight := by
  rw [driverCommand, if_neg (by simp [hi]), execPrepcmd, onPort_of_busy (by simpa using h), andThen_refused]

theorem driverRead_of_busy {s : State} (h : s.busy .rx = true) (hi : s.dev.initialized = true)
    (hc : s.dev.currentCommand = .readNavPvt) (r : BusResult) (bytes : List Byte) :
    driverRead r bytes s = .refused .bufferInFlight := by
  rw [driverRead, if_neg (by simp [hi, hc]), if_pos h]

theorem driverValidate_of_busy {s : State} (h : s.busy .rx = true) :
    driverValidate .readNavPvt s = .refused .bufferInFlight := by
  rw [driverValidate, if_neg (by simp), execValpkt, onPort_of_busy (by simpa using h), andThen_refused]

/-! ### Wide access -/

theorem readBytes_memWrite {m : Memory} (h : m.wf = true) (addr n v : Nat) :
    (m.memWrite addr n v).readBytes addr n = bytesLE n v := by
  have hback := readBytes_writeBytes h addr (bytesLE n v)
  rwa [bytesLE_length] at hback

theorem memRead_memWrite {m : Memory} (h : m.wf = true) (addr n v : Nat) :
    (m.memWrite addr n v).memRead addr n = v % 256 ^ n := by
  rw [Memory.memRead, readBytes_memWrite h, natLE_bytesLE]

theorem read_memWrite_in {m : Memory} (h : m.wf = true) (addr : Nat) {n : Nat} (v : Nat) {k : Nat} (hk : k < n) :
    (m.memWrite addr n v).read (addr + k) = BitVec.ofNat 8 (v / 256 ^ k) := by
  rw [Memory.memWrite, read_writeBytes_in h addr _ (by simpa using hk), bytesLE_getElem]

theorem read_memWrite_out (m : Memory) {addr n : Nat} (v : Nat) {a : Nat} (ha : a < addr ∨ addr + n ≤ a) :
    (m.memWrite addr n v).read a = m.read a :=
  read_writeBytes_out m addr _ (by simpa using ha)

/-! ### What an operation writes -/

theorem prepareConfigSet_eq (bufp : Bool) (key : Word) (valp : Bool) (val : Word) (w : Nat) (s : State) :
    prepareConfigSet bufp key valp val w s =
      if bufp = false ∨ valp = false ∨ 4 < w then s.respond (.size 0) else s.emit (configSetFrame s.cfg key val w) := by
  simp only [prepareConfigSet, Fixed.val_eq]

/-- What an instruction writes is settled by its operands and the parameters `c`: one frame, the same in every state, or
nothing, and then it answers no size but 0. -/
inductive WritesOrAnswers (c : Config) (i : Instr) : Prop where
  | writes (bytes : List Byte) (length_pos : 0 < bytes.length) (length_le : bytes.length ≤ 20)
      (emits : ∀ s t, s.cfg = c → exec i s = .next t → t = s.emit bytes)
  | answers (responds : ∀ s t, exec i s = .next t → ∃ r, t = s.respond r ∧ ∀ n, r = .size n → n = 0)

/-- An instruction that ends as R104's routine does: the condition under which that writes speaks of the operands alone. -/
theorem WritesOrAnswers.of_prepareConfigSet (c : Config) {i : Instr} {bufp : Bool} {key : Word} {valp : Bool} {val : Word}
    {w : Nat} (h : ∀ s t, exec i s = .next t → t = prepareConfigSet bufp key valp val w s) : WritesOrAnswers c i := by
  by_cases hc : bufp = false ∨ valp = false ∨ 4 < w
  · refine .answers fun s t ht => ⟨.size 0, ?_, fun n hn => (Response.size.inj hn).symm⟩
    rw [h s t ht, prepareConfigSet_eq, if_pos hc]
  · refine .writes (configSetFrame c key val w) ?_ ?_ fun s t hs ht => ?_
    · rw [configSetFrame_length]; omega
    · rw [configSetFrame_length]; omega
    · rw [h s t ht, prepareConfigSet_eq, if_neg hc, hs]

/-- Each of the eight operations writes one frame or only answers (R48). -/
theorem writesOrAnswers (c : Config) {i : Instr} (hi : isRequest i = true) : WritesOrAnswers c i := by
  cases i with
  | prepcmd bufp cls id =>
    cases bufp with
    | false =>
      exact .answers fun s t ht => ⟨.size 0, (exec_prepcmd_next.1 ht).2, fun n hn => (Response.size.inj hn).symm⟩
    | true =>
      refine .writes (commandFrame c cls id) (by simp) (by simp) fun s t hs ht => ?_
      rw [(exec_prepcmd_next.1 ht).2, if_pos rfl, hs]
  | prepcfg => exact .of_prepareConfigSet c fun s t ht => (exec_prepcfg_next.1 ht).2
  | prepcfgU1 => exact .of_prepareConfigSet c fun s t ht => (exec_prepcfgU1_next.1 ht).2
  | prepcfgU2 => exact .of_prepareConfigSet c fun s t ht => (exec_prepcfgU2_next.1 ht).2
  | prepcfgU4 => exact .of_prepareConfigSet c fun s t ht => (exec_prepcfgU4_next.1 ht).2
  | cksum =>
    refine .answers fun s t ht => ?_
    obtain ⟨-, -, -, rfl⟩ := execCksum_next.1 ht
    exact ⟨_, rfl, nofun⟩
  | valpkt => exact .answers fun s t ht => ⟨_, (exec_valpkt_next.1 ht).2, nofun⟩
  | valack => exact .answers fun s t ht => ⟨_, (exec_valack_next.1 ht).2, nofun⟩
  | _ => cases hi

/-! ### What a validator reads -/

/-- Two buffers hold the same bytes as far as a request of this SIZE may read: below SIZE and below BUFFER_CAPACITY, and
nothing of a SIZE that no frame has (R47, R49). -/
def AgreeWithin (c : Config) (size : Half) (m m' : Memory) : Prop :=
  8 ≤ size.toNat → ∀ a, a < size.toNat → a < c.bufferCapacity → m.read a = m'.read a

/-- The verdict as one expression: the structure first, then the checksum (R130, R131). -/
theorem validatePacket_eq_ite (c : Config) (m : Memory) (size : Half) (cls id : Byte)
    [Decidable (structureOk c m size cls id)] [Decidable (checksumOk m)] :
    validatePacket c true m size cls id =
      if structureOk c m size cls id then if checksumOk m then .ok else .checksumError else .error := by
  rcases validatePacket_cases c m size cls id with ⟨hs, e⟩ | ⟨hs, hk, e⟩ | ⟨hs, hk, e⟩
  · rw [e, if_neg hs]
  · rw [e, if_pos hs, if_neg hk]
  · rw [e, if_pos hs, if_pos hk]

section
variable {c : Config} {size : Half} {m m' : Memory} (h : AgreeWithin c size m m')
include h

/-- The first eight bytes are in every buffer. -/
theorem AgreeWithin.read_header (h8 : 8 ≤ size.toNat) {a : Nat} (ha : a < 8) : m.read a = m'.read a := by
  have hcap := bufferCapacity_ge c
  exact h h8 a (by omega) (by omega)

theorem AgreeWithin.declaredLength_eq (h8 : 8 ≤ size.toNat) : declaredLength m = declaredLength m' := by
  simp only [declaredLength, h.read_header h8 (a := 4) (by decide), h.read_header h8 (a := 5) (by decide)]

theorem AgreeWithin.structureOk_iff {cls id : Byte} : structureOk c m size cls id ↔ structureOk c m' size cls id := by
  refine and_congr_right fun h8 => ?_
  have hread {a : Nat} (ha : a < 4) : m.read a = m'.read a := h.read_header h8 (by omega)
  simp only [hread (a := 0) (by decide), hread (a := 1) (by decide), hread (a := 2) (by decide),
    hread (a := 3) (by decide), h.declaredLength_eq h8]

/-- Where the structure is right the declared bytes are the whole frame, and it fits the buffer. -/
theorem AgreeWithin.checksumOk_iff {cls id : Byte} (hs : structureOk c m size cls id) :
    checksumOk m ↔ checksumOk m' := by
  have hcap := maxPayload_eq c
  obtain ⟨h8, -, -, -, -, hmax, hsize⟩ := hs
  have hread : ∀ a, a < 8 + declaredLength m → m.read a = m'.read a := fun a ha => h h8 a (by omega) (by omega)
  rw [checksumOk, checksumOk, ← h.declaredLength_eq h8, hread _ (by omega), hread _ (by omega),
    readBytes_congr fun a _ ha => hread a (by omega)]

theorem AgreeWithin.validatePacket_eq (bufp : Bool) (cls id : Byte) :
    validatePacket c bufp m size cls id = validatePacket c bufp m' size cls id := by
  cases bufp with
  | false => rfl
  | true =>
    classical
    rw [validatePacket_eq_ite, validatePacket_eq_ite]
    by_cases hs : structureOk c m size cls id
    · simp only [hs, h.structureOk_iff.1 hs, h.checksumOk_iff hs]
    · rw [if_neg hs, if_neg (h.structureOk_iff.not.1 hs)]

/-- The Nack inspection is guarded by SIZE, and the echo is compared only behind an accepted frame (R135). -/
theorem AgreeWithin.validateAck_eq (bufp : Bool) (cls id : Byte) :
    validateAck c bufp m size cls id = validateAck c bufp m' size cls id := by
  simp only [validateAck, ← h.validatePacket_eq]
  by_cases hin : validatePacket c bufp m size c.clsAck c.idAckAck = .ok
  · obtain ⟨-, ⟨h8, -⟩, -⟩ := validatePacket_eq_ok.1 hin
    rw [if_neg (not_not_intro hin), if_neg (not_not_intro hin), h.read_header h8 (by decide : 6 < 8),
      h.read_header h8 (by decide : 7 < 8)]
  · have hnack : (bufp = true ∧ c.overhead ≤ size.toNat ∧ m.read 3 = c.idAckNak) ↔
        bufp = true ∧ c.overhead ≤ size.toNat ∧ m'.read 3 = c.idAckNak := by
      refine and_congr_right fun _ => and_congr_right fun h8 => ?_
      rw [h.read_header (overhead_eq c ▸ h8) (by decide : 3 < 8)]
    rw [if_pos hin, if_pos hin]
    exact if_congr hnack rfl rfl

end

end Sys2Proof.Machine

namespace Sys2Proof.Proofs
open Sys2Proof.Machine Sys2Proof.Claims

theorem bytesAt_eq_readBytes (m : Memory) (a n : Nat) : bytesAt m a n = m.readBytes a n := (readBytes_eq_map m a n).symm

/-- What the host or the bus does next is the whole of the next step. -/
theorem issue_eq (s : State) (a : HostAct) : issue s a = perform a s := step_of_agenda_cons rfl

theorem bytesAt_emit {s : State} (h : s.buf.wf = true) (bytes : List Byte) :
    bytesAt (s.emit bytes).buf 0 bytes.length = bytes := by
  rw [bytesAt_eq_readBytes, emit_buf, readBytes_writeBytes h]

theorem emit_wroteExactly (s : State) (bytes : List Byte) : WroteExactly s (s.emit bytes) bytes.length := by
  refine ⟨emit_resp .., fun a ha => ?_, fun b hb => emit_other s bytes hb, emit_cfg .., emit_bound .., emit_dev ..,
    emit_others .., emit_calls .., emit_agenda ..⟩
  rw [emit_buf, read_writeBytes_out _ _ _ (.inr (by omega))]

/-- Settles O6: a request completes exactly where its port is free, CKSUM within its contract too, and a frame kind exactly
where the receive of its bytes does. -/
theorem execCompletesExactlyWhereMeant : Obligations.ExecCompletesExactlyWhereMeant := by
  intro i s
  cases hi : isRequest i with
  | false =>
    rw [exec_of_frame hi, hasMeaning_of_frame hi]
    exact receiveBytes_completes
  | true =>
    cases i with
    | cksum bufp ofs count =>
      refine execCksum_completes.trans ?_
      simp [hasMeaning, and_assoc]
    | prepcmd => exact onPort_completes
    | prepcfg => exact onPort_completes
    | prepcfgU1 => exact onPort_completes
    | prepcfgU2 => exact onPort_completes
    | prepcfgU4 => exact onPort_completes
    | valpkt => exact onPort_completes
    | valack => exact onPort_completes
    | _ => cases hi

/-- Settles O16: a wide write is the little-endian bytes of its value, each at its own offset. -/
theorem wideAccessIsLittleEndian : Obligations.WideAccessIsLittleEndian := by
  refine ⟨fun m addr n v h => ⟨memRead_memWrite h addr n v, fun k hk => read_memWrite_in h addr v hk,
    fun a ha => read_memWrite_out m v ha⟩, fun m h => ?_⟩
  rw [bytesAt_eq_readBytes, readBytes_memWrite h]
  decide

/-- Settles O17: in the canonical form what is listed is what does not read as unlisted, so lists that read alike are the
same, entry by entry; and a write puts or drops its entry at the place its offset has. -/
theorem bufferContentsAreCanonical : Obligations.BufferContentsAreCanonical :=
  ⟨fun _ _ h h' hr => eq_of_read_eq_from h h' hr, fun _ i v h => write_wf h i v⟩

/-- Settles O18: an operation that writes emits a frame that its operands and the parameters alone determine, and one that
does not write answers no size but 0 and moves the response alone. -/
theorem operationsWriteOnlyTheirFrame : Obligations.OperationsWriteOnlyTheirFrame := by
  intro i s t hi ht
  cases writesOrAnswers s.cfg hi with
  | writes bytes hpos hle hemit =>
    obtain rfl := hemit s t rfl ht
    have hsize : (BitVec.ofNat 16 bytes.length).toNat = bytes.length := by rw [BitVec.toNat_ofNat]; omega
    refine ⟨fun n hn _ => ?_, fun hzero => ?_⟩
    · obtain rfl : BitVec.ofNat 16 bytes.length = n := by simpa using hn
      rw [hsize]
      refine ⟨emit_wroteExactly s bytes, fun s' t' hw hw' hcfg ht' => ?_⟩
      rw [hemit s' t' hcfg ht', bytesAt_emit hw', bytesAt_emit hw]
    · have hlen : bytes.length = 0 := by rw [← hsize, hzero _ (emit_resp s bytes)]; rfl
      omega
  | answers hresp =>
    obtain ⟨r, rfl, hr⟩ := hresp s t ht
    exact ⟨fun n hn hne => absurd (hr n (Option.some.inj hn)) hne, fun _ => rfl⟩

/-- Settles O33: both verdicts are the same on buffers that agree within the request's SIZE. -/
theorem validatorsReadOnlyDeclaredBytes : Obligations.ValidatorsReadOnlyDeclaredBytes := by
  intro s s' t bufp size cls id i hcfg hi hfree hagree ht
  have h : AgreeWithin s.cfg size s.buf s'.buf := hagree
  rcases hi with rfl | rfl
  · obtain ⟨-, rfl⟩ := exec_valpkt_next.1 ht
    refine exec_valpkt_next.2 ⟨hfree, ?_⟩
    rw [← hcfg, ← h.validatePacket_eq, hcfg]
    rfl
  · obtain ⟨-, rfl⟩ := exec_valack_next.1 ht
    refine exec_valack_next.2 ⟨hfree, ?_⟩
    rw [← hcfg, ← h.validateAck_eq, hcfg]
    rfl

/-- Settles O40: an operation ends on its port, which refuses a buffer in flight; the host's write and the driver's calls
ask for the buffer before they do anything else to it. -/
theorem bufferInFlightIsRefused : Obligations.BufferInFlightIsRefused := by
  refine ⟨?_, fun s ofs count h hin => execCksum_of_busy h hin,
    fun s b a v h => (issue_eq ..).trans (hostPoke_of_busy h a v), ?_,
    fun s r h hi => (issue_eq ..).trans (driverCommand_of_busy h hi r), ?_⟩
  · intro s cls id key valp val vw v1 v2 v4 size h
    exact ⟨onPort_of_busy h _, onPort_of_busy h _, onPort_of_busy h _, onPort_of_busy h _, onPort_of_busy h _,
      onPort_of_busy h _, onPort_of_busy h _⟩
  · intro s b c h1 h2 h ht hr hd
    have hc : c.toTransport.complete = true := by simp [Transport.complete, DriverConfig.toTransport, ht, hr, hd]
    exact (issue_eq ..).trans (driverInit_of_busy h hc h1 h2)
  · intro s n h
    have hbusy : s.busy .rx = true := by simp [h]
    exact ⟨(issue_eq ..).trans (driverValidate_of_busy hbusy),
      fun hi hc r bytes => (issue_eq ..).trans (driverRead_of_busy hbusy hi hc r bytes)⟩

/-- Settles O58: a host write is one write of the memory, guarded by the buffer's capacity. -/
theorem hostWritesOneByte : Obligations.HostWritesOneByte := by
  refine ⟨fun s b a v hw hb ha => ?_, fun s b a v hb ha => (issue_eq ..).trans (hostPoke_of_ge hb ha v),
    fun s b => issue_eq s (.bind b)⟩
  refine ⟨_, (issue_eq ..).trans (hostPoke_of_lt hb ha v), ?_, fun x hx => ?_,
    fun b' hb' => setBuffer_other s b _ hb', ?_⟩
  · rw [setBuffer_same, read_write_same hw]
  · rw [setBuffer_same, read_write_ne _ hx]
  · simp

end Sys2Proof.Proofs
end

section
/-!
Proofs about the encodings (spec/30_encoding.md): the decoder and the encoder against each other, the layout of the frame
kinds as they arrive, and the frame an encoder writes read byte by byte.
-/
namespace Sys2Proof

open Machine (isRequest)

/-! ### Which row of the table a frame is: its payload's length, with class and id, tells the kinds apart -/

/-- A Config-Set's class, id and payload classify as that Config-Set: its key and its value are read back from where they
were put (R64). -/
theorem classifyFrame_valset (c : Config) (key : Word) {v : List Byte} (h : v.length ≤ 4) (a b : Byte) :
    classifyFrame c c.clsCfg c.idCfgValset (valsetPayload c key v) a b = .ubxCfgValset key v a b := by
  have hv : isValset c c.clsCfg c.idCfgValset (valsetPayload c key v) = true := by
    refine isValset_iff.2 ⟨rfl, rfl, by simp, by simpa using h, ?_⟩
    simp [valsetPayload, valsetHead]
  have hkey : ((valsetPayload c key v).drop 4).take 4 = bytesLE 4 key.toNat := by simp [valsetPayload, valsetHead]
  have hvalue : (valsetPayload c key v).drop c.cfgHdrLen.val = v := by
    rw [Fixed.val_eq, valsetPayload, List.drop_left' (valsetHead_length c key)]
  rw [classifyFrame, if_pos hv, hkey, hvalue, natLE_bytesLE, Nat.mod_eq_of_lt (by simpa using key.isLt), BitVec.ofNat_toNat,
    BitVec.setWidth_eq]

theorem classifyFrame_ackAck (c : Config) (cls id a b : Byte) :
    classifyFrame c c.clsAck c.idAckAck [cls, id] a b = .ubxAckAck cls id a b := by
  simp [classifyFrame, isValset_iff, isAckAck_iff]

/-- A Nack is no Ack, by the one requirement R9 puts on the parameters. -/
theorem classifyFrame_ackNak {c : Config} (hc : c.wf = true) (cls id a b : Byte) :
    classifyFrame c c.clsAck c.idAckNak [cls, id] a b = .ubxAckNak cls id a b := by
  have hne : c.idAckNak ≠ c.idAckAck := by simpa [Config.wf] using hc
  simp [classifyFrame, isValset_iff, isAckAck_iff, isAckNak_iff, hne]

theorem classifyFrame_pvtPoll (c : Config) : classifyFrame c c.clsNav c.idNavPvt []
    (regionChecksum c.clsNav c.idNavPvt []).1 (regionChecksum c.clsNav c.idNavPvt []).2 = .ubxNavPvtPoll := by
  simp [classifyFrame, isValset_iff, isAckAck_iff, isAckNak_iff, isPvtPoll_iff]

theorem classifyFrame_navPvt (c : Config) {p : List Byte} (h : p.length = 92) (a b : Byte) :
    classifyFrame c c.clsNav c.idNavPvt p a b = .ubxNavPvt p a b := by
  have hne : p ≠ [] := List.ne_nil_of_length_pos (by omega)
  simp [classifyFrame, isValset_iff, isAckAck_iff, isAckNak_iff, isPvtPoll_iff, isNavPvt_iff, h, hne]

theorem classifyFrame_navStatus (c : Config) {p : List Byte} (h : p.length = 16) (a b : Byte) :
    classifyFrame c c.clsNav c.idNavStatus p a b = .ubxNavStatus p a b := by
  have hne : p ≠ [] := List.ne_nil_of_length_pos (by omega)
  simp [classifyFrame, isValset_iff, isAckAck_iff, isAckNak_iff, isPvtPoll_iff, isNavPvt_iff, isNavStatus_iff, h, hne]

theorem classifyFrame_header {c : Config} {cls id : Byte} {p : List Byte} {a b : Byte}
    (h : isNamedFrame c cls id p a b = false) : classifyFrame c cls id p a b = .ubxHeader cls id p a b := by
  simp only [isNamedFrame, Bool.or_eq_false_iff, and_assoc] at h
  obtain ⟨hv, ha, hn, hp, hpvt, hst⟩ := h
  simp [classifyFrame, hv, ha, hn, hp, hpvt, hst]

/-- Every row a frame can be is a frame kind. -/
theorem isRequest_classifyFrame (c : Config) (cls id : Byte) (p : List Byte) (a b : Byte) :
    isRequest (classifyFrame c cls id p a b) = false := by
  unfold classifyFrame
  split_ifs <;> rfl

theorem encode_of_frame {i : Instr} (h : isRequest i = false) (c : Config) :
    encode c i = .wire (frameBytes c i) := by
  cases i with
  | ubxHeader => rfl
  | ubxCfgValset => rfl
  | ubxAckAck => rfl
  | ubxAckNak => rfl
  | ubxNavPvtPoll => rfl
  | ubxNavPvt => rfl
  | ubxNavStatus => rfl
  | _ => cases h

/-- A well-formed frame kind is read back from its bytes: they come apart into class, id, payload and checksum bytes, and
those classify as the kind they came from. -/
theorem decodeFrame_frameBytes {c : Config} (hc : c.wf = true) {i : Instr} (hi : isRequest i = false)
    (hw : i.wf c = true) : decodeFrame c (frameBytes c i) = .ok i := by
  cases i with
  | ubxHeader cls id p a b =>
    obtain ⟨hlen, hnone⟩ := wf_ubxHeader_iff.1 hw
    rw [frameBytes, decodeFrame_frameWith _ _ _ _ _ _ hlen, classifyFrame_header hnone]
  | ubxCfgValset key v a b =>
    have hlen := wf_ubxCfgValset_iff.1 hw
    rw [frameBytes, decodeFrame_frameWith _ _ _ _ _ _ (by rw [valsetPayload_length]; omega), classifyFrame_valset c key hlen]
  | ubxAckAck cls id a b =>
    rw [frameBytes, decodeFrame_frameWith _ _ _ _ _ _ (by simp), classifyFrame_ackAck]
  | ubxAckNak cls id a b =>
    rw [frameBytes, decodeFrame_frameWith _ _ _ _ _ _ (by simp), classifyFrame_ackNak hc]
  | ubxNavPvtPoll =>
    rw [frameBytes, frame, decodeFrame_frameWith _ _ _ _ _ _ (by simp), classifyFrame_pvtPoll]
  | ubxNavPvt p a b =>
    have hlen : p.length = 92 := by simpa [Instr.wf] using hw
    rw [frameBytes, decodeFrame_frameWith _ _ _ _ _ _ (by omega), classifyFrame_navPvt c hlen]
  | ubxNavStatus p a b =>
    have hlen : p.length = 16 := by simpa [Instr.wf] using hw
    rw [frameBytes, decodeFrame_frameWith _ _ _ _ _ _ (by omega), classifyFrame_navStatus c hlen]
  | _ => cases hi

/-- Sync bytes, a header and exactly `length + 2` bytes after it are accepted (R60, R62). -/
theorem decodeFrame_of_length (c : Config) (cls id lo hi : Byte) {rest : List Byte} (h : rest.length = le16 lo hi + 2) :
    ∃ i, decodeFrame c (0xB5 :: 0x62 :: cls :: id :: lo :: hi :: rest) = .ok i := by
  simp [decodeFrame, h]

/-! ### The request word -/

/-- A request is read back from its word: every field it reads was packed at its own place (R21, R22, R80). -/
theorem decode_encode_request (c : Config) {i : Instr} (hi : isRequest i = true) :
    decode c (encode c i) = .ok i := by
  cases i with
  | prepcmd => simp [encode, decode, decodeRequest]
  | prepcfg => simp [encode, decode, decodeRequest]
  | cksum => simp [encode, decode, decodeRequest]
  | valpkt => simp [encode, decode, decodeRequest]
  | valack => simp [encode, decode, decodeRequest]
  | prepcfgU1 => simp [encode, decode, decodeRequest, BitVec.extractLsb'_setWidth_of_le]
  | prepcfgU2 => simp [encode, decode, decodeRequest, BitVec.extractLsb'_setWidth_of_le]
  | prepcfgU4 => simp [encode, decode, decodeRequest]
  | _ => cases hi

theorem isRequest_decodeRequest (w : RequestWord) : isRequest (decodeRequest w) = true := by
  unfold decodeRequest
  split <;> rfl

/-- The operation codes are all the values OP can have (R80, R81). -/
theorem op_cases : ∀ op : BitVec 3,
    op = 0 ∨ op = 1 ∨ op = 2 ∨ op = 3 ∨ op = 4 ∨ op = 5 ∨ op = 6 ∨ op = 7 := by decide

/-- The operation a word decodes to has that word's OP as its own code. -/
theorem encode_decodeRequest_keeps_op (c : Config) (w : RequestWord) :
    ∃ w', encode c (decodeRequest w) = .request w' ∧ reqOp w' = reqOp w := by
  rcases op_cases (reqOp w) with h | h | h | h | h | h | h | h <;> rw [decodeRequest, h] <;>
    exact ⟨_, rfl, reqOp_pack ..⟩

end Sys2Proof

namespace Sys2Proof.Machine

/-! ### Little-endian bytes and bit fields -/

/-- Byte `k` of a value is its bits from `8k` (R12, R41). -/
theorem ofNat_div_eq_extractLsb' {n : Nat} (x : BitVec n) (k : Nat) :
    BitVec.ofNat 8 (x.toNat / 256 ^ k) = x.extractLsb' (8 * k) 8 := by
  apply BitVec.eq_of_toNat_eq
  rw [BitVec.toNat_ofNat, BitVec.extractLsb'_toNat, Nat.shiftRight_eq_div_pow, Nat.pow_mul]

theorem bytesLE_four_toNat (x : Word) : bytesLE 4 x.toNat =
    [x.extractLsb' 0 8, x.extractLsb' 8 8, x.extractLsb' 16 8, x.extractLsb' 24 8] := by
  apply List.ext_getElem
  · simp
  · intro k h1 h2
    rw [bytesLE_getElem, ofNat_div_eq_extractLsb']
    have hk : k < 4 := by simpa using h1
    interval_cases k <;> rfl

/-! ### The bytes of a frame -/

/-- The checksum of a header with no payload, in closed form (R101). -/
theorem regionChecksum_nil (cls id : Byte) : regionChecksum cls id [] = (cls + id, 4 * cls + 3 * id) := by
  have hregion : headerBody cls id 0 ++ [] = [cls, id, 0, 0] := rfl
  have hsum : cls + (cls + id) + (cls + id) + (cls + id) = 4 * cls + 3 * id := by ring
  rw [regionChecksum, List.length_nil, hregion]
  simpa [fletcher8, fletcherStep] using hsum

/-- The ten bytes before the key, of a frame whose length field is one byte (R60, R64). -/
theorem configSetFrame_take_ten (c : Config) (key val : Word) {w : Nat} (h : w ≤ 4) :
    (configSetFrame c key val w).take 10 = [0xB5, 0x62, c.clsCfg, c.idCfgValset, BitVec.ofNat 8 (8 + w), 0x00, 0x00,
      0x01 ||| c.layerBbr, 0x00, 0x00] := by
  have hhigh : (8 + w) / 256 = 0 := by omega
  simp [configSetFrame_eq, hhigh, Config.layerMask]

/-- The key stands little-endian at offsets 10 to 13 (R64, R69). -/
theorem configSetFrame_key (c : Config) (key val : Word) (w : Nat) {k : Nat} (h : k < 4) :
    (configSetFrame c key val w)[10 + k]? = some (BitVec.ofNat 8 (key.toNat / 256 ^ k)) := by
  rw [configSetFrame_eq, Nat.add_comm 10 k]
  simp only [List.getElem?_cons_succ]
  rw [List.getElem?_append_left (by simpa using h), List.getElem?_eq_getElem (by simpa using h), bytesLE_getElem]

/-- The value stands little-endian from offset 14 (R64, R68). -/
theorem configSetFrame_value (c : Config) (key val : Word) {w k : Nat} (h : k < w) :
    (configSetFrame c key val w)[14 + k]? = some (BitVec.ofNat 8 (val.toNat / 256 ^ k)) := by
  rw [configSetFrame_eq, show 14 + k = (4 + k) + 10 by omega]
  simp only [List.getElem?_cons_succ]
  rw [List.getElem?_append_right (by simp), bytesLE_length, Nat.add_sub_cancel_left,
    List.getElem?_append_left (by simpa using h), List.getElem?_eq_getElem (by simpa using h), bytesLE_getElem]

/-- A frame that carries its own checksum has, in a buffer that holds it, the checksum of its region at its end (R63,
R123). -/
theorem checksum_of_written_frame {m : Memory} (hm : m.wf = true) (c : Config) (cls id : Byte) {p : List Byte} {n : Nat}
    (hn : p.length = n) :
    ((m.writeBytes 0 (frame c cls id p)).read (6 + n), (m.writeBytes 0 (frame c cls id p)).read (7 + n)) =
      fletcher8 ((m.writeBytes 0 (frame c cls id p)).readBytes 2 (4 + n)) := by
  subst hn
  rw [frame, read_written hm (frameWith_ckA ..), read_written hm (frameWith_ckB ..), Nat.add_comm 4,
    readBytes_written hm _ _ _ (by rw [frameWith_length]; omega), frameWith_region]
  rfl

end Sys2Proof.Machine

namespace Sys2Proof.Proofs
open Sys2Proof.Machine Sys2Proof.Claims

/-- A frame kind whose bytes are `bytes` arrives where the transport may store that many, and moves nothing else. -/
theorem exec_frame_received {i : Instr} (hi : isRequest i = false) {s : State} (hw : s.rx.wf = true) {bytes : List Byte}
    (hbytes : frameBytes s.cfg i = bytes) (ha : s.accepts bytes.length = true) :
    ∃ t, exec i s = .next t ∧ Received s t bytes := by
  refine ⟨s.received bytes, ?_, ?_, fun a h => ?_, rfl, rfl, rfl, rfl, rfl, rfl, rfl, rfl⟩
  · rw [exec_of_frame hi, hbytes]
    exact receiveBytes_next.2 ⟨ha, rfl⟩
  · rw [bytesAt_eq_readBytes, received_rx, readBytes_writeBytes hw]
  · rw [received_rx, read_writeBytes_out _ _ _ (.inr (by omega))]

/-- An encoder's success with the Config-Set frame of a width up to 4 is what R104 says PREPCFG writes. -/
theorem emit_configSetFrame {s : State} (hs : s.buf.wf = true) (key val : Word) {w : Nat} (hw : w ≤ 4) :
    WroteConfigSet s (s.emit (configSetFrame s.cfg key val w)) key val w := by
  have hlen : (valsetPayload s.cfg key (bytesLE w val.toNat)).length = 8 + w := by simp; omega
  refine ⟨?_, fun k hk => ?_, fun k hk => ?_, ?_, ?_⟩
  · rw [bytesAt_eq_readBytes, emit_buf, readBytes_written hs _ _ _ (by rw [configSetFrame_length]; omega),
      List.drop_zero, configSetFrame_take_ten _ _ _ hw]
  · rw [emit_buf, read_written hs (configSetFrame_key _ _ _ _ hk)]
  · rw [emit_buf, read_written hs (configSetFrame_value _ _ _ hk)]
  · have hck := checksum_of_written_frame hs s.cfg s.cfg.clsCfg s.cfg.idCfgValset hlen
    rw [bytesAt_eq_readBytes, emit_buf]
    simpa only [configSetFrame, ← Nat.add_assoc, Nat.reduceAdd] using hck
  · have hwrote := emit_wroteExactly s (configSetFrame s.cfg key val w)
    rwa [configSetFrame_length] at hwrote

/-- Settles O9: a request's operands read back as the fields they were packed into, and a frame's bytes come apart into
what they were made of and classify as the kind they came from. -/
theorem decodeEncodeAgree : Obligations.DecodeEncodeAgree := by
  intro c i hc hw
  cases hi : isRequest i with
  | false =>
    rw [encode_of_frame hi]
    exact decodeFrame_frameBytes hc hi hw
  | true => exact decode_encode_request c hi

/-- Settles O10: what decodes is a whole frame, and the kind it is classified as keeps its bytes. -/
theorem frameDecodingLosesNothing : Obligations.FrameDecodingLosesNothing := by
  intro c bytes i h
  obtain ⟨cls, id, p, a, b, hlen, rfl, rfl⟩ := decodeFrame_ok h
  have hi := isRequest_classifyFrame c cls id p a b
  refine ⟨classifyFrame_wf c cls id p a b hlen, hi, ?_⟩
  rw [encode_of_frame hi, frameBytes_classifyFrame]

/-- Settles O11: a frame's length field says its payload's length, and sync bytes, header and so many bytes are all that
the decoder asks for. -/
theorem frameDecodingAcceptsWholeFrames : Obligations.FrameDecodingAcceptsWholeFrames := by
  intro c bytes
  constructor
  · rintro ⟨i, h⟩
    obtain ⟨cls, id, p, a, b, hlen, rfl, -⟩ := decodeFrame_ok h
    have hfield := le16_bytes p.length hlen
    rw [le16] at hfield
    refine ⟨cls, id, _, _, _, frameWith_eq .., ?_⟩
    rw [frameWith_length]
    omega
  · rintro ⟨cls, id, lo, hi, rest, rfl, hlen⟩
    refine decodeFrame_of_length c cls id lo hi ?_
    simp only [List.length_cons] at hlen
    rw [le16]
    omega

/-- Settles O13: all eight values of OP select an operation, and encoding it puts that OP back. -/
theorem everyRequestWordIsARequest : Obligations.EveryRequestWordIsARequest :=
  fun w => ⟨decodeRequest w, rfl, isRequest_decodeRequest w, encode_decodeRequest_keeps_op Config.standard w⟩

/-- Settles O42: a frame kind's meaning is the receive of its bytes, and those are laid out as the table has them. -/
theorem framesArriveAsTheTableLaysThemOut : Obligations.FramesArriveAsTheTableLaysThemOut := by
  intro s hw
  refine ⟨fun cls id p a b ha => ?_, fun key value a b ha => ?_, fun cls id a b ha => ?_, fun cls id a b ha => ?_,
    fun ha => ?_, fun p a b hp ha => ?_, fun p a b hp ha => ?_⟩
  · refine exec_frame_received rfl hw ?_ (by simpa using ha)
    simp [frameBytes, frameWith_eq]
  · refine exec_frame_received rfl hw ?_ (by simpa using ha)
    rw [frameBytes, frameWith_eq, valsetPayload_length, Nat.add_comm value.length]
    simp [valsetPayload, valsetHead, bytesLE_four_toNat, Config.layerMask]
  · exact exec_frame_received rfl hw (by simp [frameBytes, frameWith_eq]) ha
  · exact exec_frame_received rfl hw (by simp [frameBytes, frameWith_eq]) ha
  · refine exec_frame_received rfl hw ?_ ha
    simp [frameBytes, frame_eq, regionChecksum_nil]
  · refine exec_frame_received rfl hw ?_ (by simpa [hp] using ha)
    simp [frameBytes, frameWith_eq, hp]
  · refine exec_frame_received rfl hw ?_ (by simpa [hp] using ha)
    simp [frameBytes, frameWith_eq, hp]

/-- Settles O48: the wrapper of a key's width emits that key's Config-Set frame, whose bytes are R104's. -/
theorem catalogueKeysUseTheirWrapper : Obligations.CatalogueKeysUseTheirWrapper := by
  refine ⟨fun c => ?_, rfl, rfl, fun key v => ⟨rfl, rfl, rfl⟩, fun s i v _ hw hfree => ?_⟩
  · simp [Config.catalogue, Config.itemUbx, Config.itemNmea, Config.itemRate, ValueWidth.bytes]
  · exact ⟨_, exec_itemRequest hfree, emit_configSetFrame hw i.key v (width_le i.width).2⟩

/-- Settles O8: each word is evaluated by the decoder. -/
theorem tableWordsDecode : Obligations.TableWordsDecode := by
  unfold Obligations.TableWordsDecode
  decide

end Sys2Proof.Proofs
end

section
/-!
Proofs about the encoders (spec/40_encode.md): the frames they write, byte by byte, and that the validator and the checksum
unit agree with what was written.
-/
namespace Sys2Proof.Machine

/-! ### What an encoder does with a buffer bound and free -/

theorem portFree_emit (s : State) (bytes : List Byte) (bufp : Bool) :
    (s.emit bytes).portFree bufp = s.portFree bufp := by simp [State.portFree]

theorem exec_prepcmd_of_free {s : State} (h : s.portFree true = true) (cls id : Byte) :
    exec (.prepcmd true cls id) s = .next (s.emit (commandFrame s.cfg cls id)) :=
  exec_prepcmd_next.2 ⟨h, rfl⟩

/-- The eight bytes of a command frame, its checksum in closed form (R100, R101). -/
theorem commandFrame_eq (c : Config) (cls id : Byte) :
    commandFrame c cls id = [0xB5, 0x62, cls, id, 0x00, 0x00, cls + id, 4 * cls + 3 * id] := by
  simp [commandFrame, frame_eq, regionChecksum_nil]

theorem prepareConfigSet_of_le {w : Nat} (h : w ≤ 4) (key val : Word) (s : State) :
    prepareConfigSet true key true val w s = s.emit (configSetFrame s.cfg key val w) := by
  rw [prepareConfigSet_eq, if_neg (by simpa using h)]

/-- R104's routine answers a size above 0 only where it has emitted the frame of that size. -/
theorem prepareConfigSet_emits_of_size_pos {bufp valp : Bool} {key val : Word} {w : Nat} {s : State} {n : Half}
    (h : (prepareConfigSet bufp key valp val w s).resp = some (.size n)) (hn : 0 < n.toNat) :
    bufp = true ∧ w ≤ 4 ∧ n.toNat = 16 + w ∧
      prepareConfigSet bufp key valp val w s = s.emit (configSetFrame s.cfg key val w) := by
  rcases prepareConfigSet_cases bufp key valp val w s with ⟨-, e⟩ | ⟨hb, -, hw, e⟩
  · obtain rfl : 0 = n := by simpa [e] using h
    exact absurd hn (by decide)
  · obtain rfl : BitVec.ofNat 16 (16 + w) = n := by simpa [e] using h
    exact ⟨hb, hw, by rw [BitVec.toNat_ofNat]; omega, e⟩

/-! ### The validator and the checksum unit on a frame just written -/

section
variable {s : State} (hs : s.buf.wf = true) (hfree : s.portFree true = true)
include hs hfree

/-- VALPKT accepts an encoder's frame at its own size, against its own class and id (R108). -/
theorem exec_valpkt_emit_frame (cls id : Byte) {p : List Byte} {n : Nat} (hp : p.length = n) (hn : n ≤ 12) {size : Half}
    (hsize : size.toNat = 8 + n) :
    exec (.valpkt true size cls id) (s.emit (frame s.cfg cls id p)) =
      .next ((s.emit (frame s.cfg cls id p)).respond (.status .ok)) := by
  have hcap := bufferCapacity_ge s.cfg
  have hmax := maxPayload_eq s.cfg
  have hholds : (s.buf.writeBytes 0 (frame s.cfg cls id p)).readBytes 0 size.toNat = frame s.cfg cls id p := by
    rw [hsize, ← hp, Nat.add_comm, ← frame_length s.cfg cls id p, readBytes_writeBytes hs]
  refine exec_valpkt_next.2 ⟨by rw [portFree_emit, hfree], ?_⟩
  rw [emit_cfg, emit_buf, validatePacket_frame (by omega) (hp ▸ hsize) hholds, if_pos rfl]

/-- CKSUM over the region of an encoder's frame answers the frame's last two bytes (R108, R123). -/
theorem exec_cksum_emit_frame (cls id : Byte) {p : List Byte} {n : Nat} (hp : p.length = n) (hn : n ≤ 12) {count : Half}
    (hcount : count.toNat = 4 + n) :
    exec (.cksum true 2 count) (s.emit (frame s.cfg cls id p)) =
      .next ((s.emit (frame s.cfg cls id p)).respond (.checksum
        ((s.emit (frame s.cfg cls id p)).buf.read (6 + n)) ((s.emit (frame s.cfg cls id p)).buf.read (7 + n)))) := by
  have hcap := bufferCapacity_ge s.cfg
  have hofs : (2 : Half).toNat = 2 := rfl
  refine execCksum_next.2 ⟨rfl, ?_, by rw [portFree_emit, hfree], ?_⟩
  · rw [emit_cfg, hofs, hcount]
    omega
  · rw [emit_buf, hofs, hcount, ← checksum_of_written_frame hs s.cfg cls id hp]

end

/-- What R104's routine writes when it answers a size, VALPKT accepts at that size, and CKSUM over offsets 2 to size - 3
answers the frame's last two bytes (R108). -/
theorem prepareConfigSet_roundTrip {bufp valp : Bool} {key val : Word} {w : Nat} {s t : State} {n : Half}
    (hs : s.buf.wf = true) (hfree : s.portFree bufp = true) (ht : t = prepareConfigSet bufp key valp val w s)
    (hresp : t.resp = some (.size n)) (hn : 0 < n.toNat) :
    exec (.valpkt true n s.cfg.clsCfg s.cfg.idCfgValset) t = .next (t.respond (.status .ok)) ∧
    exec (.cksum true 2 (n - 4)) t =
      .next (t.respond (.checksum (t.buf.read (n.toNat - 2)) (t.buf.read (n.toNat - 1)))) := by
  obtain ⟨rfl, hw, hsize, hemit⟩ := prepareConfigSet_emits_of_size_pos (ht ▸ hresp) hn
  have hlen : (valsetPayload s.cfg key (bytesLE w val.toNat)).length = 8 + w := by simp; omega
  have hcount : (n - 4).toNat = 4 + (8 + w) := by bv_omega
  obtain rfl := ht.trans hemit
  refine ⟨exec_valpkt_emit_frame hs hfree _ _ hlen (by omega) (by omega), ?_⟩
  rw [show n.toNat - 2 = 6 + (8 + w) by omega, show n.toNat - 1 = 7 + (8 + w) by omega]
  exact exec_cksum_emit_frame hs hfree _ _ hlen (by omega) hcount

end Sys2Proof.Machine

namespace Sys2Proof.Proofs
open Sys2Proof.Machine Sys2Proof.Claims

/-! ### What PREPCFG writes -/

section
variable {s t : State} {key val : Word} {w : Nat} (h : WroteConfigSet s t key val w)
include h

theorem wroteExactly_of_wroteConfigSet : WroteExactly s t (16 + w) := by
  obtain ⟨-, -, -, -, hwrote⟩ := h
  exact hwrote

theorem read_length_of_wroteConfigSet : t.buf.read 4 = BitVec.ofNat 8 (8 + w) := by
  obtain ⟨hhead, -⟩ := h
  exact Option.some.inj (congrArg (·[4]?) hhead)

theorem read_value_of_wroteConfigSet (k : Nat) (hk : k < w) : t.buf.read (14 + k) = val.extractLsb' (8 * k) 8 := by
  obtain ⟨-, -, hvalue, -⟩ := h
  rw [hvalue k hk, ofNat_div_eq_extractLsb']

end

/-- At every width up to 4 PREPCFG completes and writes the Config-Set frame (R104, R109). -/
theorem exec_prepcfg_writes {s : State} (hs : s.buf.wf = true) (hfree : s.portFree true = true) (key val : Word)
    {vw : Byte} (hw : vw.toNat ≤ 4) :
    ∃ t, exec (.prepcfg true key true val vw) s = .next t ∧ WroteConfigSet s t key val vw.toNat :=
  ⟨_, exec_prepcfg_next.2 ⟨hfree, (prepareConfigSet_of_le hw key val s).symm⟩, emit_configSetFrame hs key val hw⟩

/-- With no buffer, no value or a width above 4 PREPCFG answers 0 and writes nothing (R104). -/
theorem exec_prepcfg_writes_nothing {s : State} {bufp valp : Bool} {vw : Byte} (hfree : s.portFree bufp = true)
    (h : bufp = false ∨ valp = false ∨ 4 < vw.toNat) (key val : Word) :
    exec (.prepcfg bufp key valp val vw) s = .next (s.respond (.size 0)) :=
  exec_prepcfg_next.2 ⟨hfree, by rw [prepareConfigSet_eq, if_pos h]⟩

/-! ### The obligations -/

/-- Settles O21: with its buffer free PREPCMD emits the command frame, laid out, and an emit writes its bytes and answers
their count; with no buffer it only answers. -/
theorem prepcmdWritesTheCommandFrame : Obligations.PrepcmdWritesTheCommandFrame := by
  refine ⟨fun s cls id hs hfree => ⟨_, exec_prepcmd_of_free hfree cls id, ?_, ?_, ?_⟩, fun s cls id => rfl⟩
  · rw [bytesAt_eq_readBytes, emit_buf, readBytes_written hs _ _ _ (by simp), commandFrame_eq]
    rfl
  · rw [bytesAt_eq_readBytes, emit_buf]
    exact checksum_of_written_frame hs s.cfg cls id (p := []) rfl
  · exact emit_wroteExactly s (commandFrame s.cfg cls id)

/-- Settles O22: the command frame's checksum bytes in closed form, taken from words to numbers. -/
theorem prepcmdChecksumClosedForm : Obligations.PrepcmdChecksumClosedForm := by
  intro s t cls id hs h
  obtain ⟨-, rfl⟩ := exec_prepcmd_next.1 h
  have hA : (s.emit (commandFrame s.cfg cls id)).buf.read 6 = cls + id := by
    rw [emit_buf, commandFrame_eq, read_written hs rfl]
  have hB : (s.emit (commandFrame s.cfg cls id)).buf.read 7 = 4 * cls + 3 * id := by
    rw [emit_buf, commandFrame_eq, read_written hs rfl]
  rw [if_pos rfl, hA, hB]
  exact ⟨BitVec.toNat_add .., by simp⟩

/-- Settles O23: 1, 2 and 4 are widths up to 4, at which PREPCFG emits the frame; the three failures only answer. -/
theorem prepcfgWritesTheConfigSetFrame : Obligations.PrepcfgWritesTheConfigSetFrame := by
  refine ⟨fun s key val vw hs hfree hvw => exec_prepcfg_writes hs hfree key val ?_,
    fun s bufp key valp val vw hfree h => exec_prepcfg_writes_nothing hfree h key val⟩
  rcases hvw with rfl | rfl | rfl <;> decide

/-- Settles O24: 0 and 3 are widths up to 4 too, and the model has one rule for them all (log 10). -/
theorem prepcfgWidthsZeroAndThreeByTheLiteralRule : Obligations.PrepcfgWidthsZeroAndThreeByTheLiteralRule := by
  intro s key val vw hs hfree hvw
  refine exec_prepcfg_writes hs hfree key val ?_
  rcases hvw with rfl | rfl <;> decide

/-- Settles O25: each wrapper is PREPCFG by definition, so its frame is PREPCFG's, whose value bytes are the bits of the
zero-extended value. -/
theorem typedWrappersWriteTheirFrames : Obligations.TypedWrappersWriteTheirFrames := by
  refine ⟨fun _ _ _ _ => rfl, fun _ _ _ _ => rfl, fun _ _ _ _ => rfl, fun s key val hs hfree => ?_,
    fun s key val hs hfree => ?_, fun s key val hs hfree => ?_, fun _ _ _ _ _ => ⟨rfl, rfl, rfl⟩⟩
  · obtain ⟨t, ht, hwrote⟩ := exec_prepcfg_writes hs hfree key (val.setWidth 32) (vw := 1) (by decide)
    have hvalue := read_value_of_wroteConfigSet hwrote
    refine ⟨t, ht, wroteExactly_of_wroteConfigSet hwrote, read_length_of_wroteConfigSet hwrote, ?_⟩
    exact (hvalue 0 (by decide)).trans ((BitVec.extractLsb'_setWidth_of_le (by decide)).trans BitVec.extractLsb'_eq_self)
  · obtain ⟨t, ht, hwrote⟩ := exec_prepcfg_writes hs hfree key (val.setWidth 32) (vw := 2) (by decide)
    have hvalue := read_value_of_wroteConfigSet hwrote
    refine ⟨t, ht, wroteExactly_of_wroteConfigSet hwrote, read_length_of_wroteConfigSet hwrote, ?_, ?_⟩
    · exact (hvalue 0 (by decide)).trans (BitVec.extractLsb'_setWidth_of_le (by decide))
    · exact (hvalue 1 (by decide)).trans (BitVec.extractLsb'_setWidth_of_le (by decide))
  · obtain ⟨t, ht, hwrote⟩ := exec_prepcfg_writes hs hfree key val (vw := 4) (by decide)
    have hvalue := read_value_of_wroteConfigSet hwrote
    exact ⟨t, ht, wroteExactly_of_wroteConfigSet hwrote, read_length_of_wroteConfigSet hwrote,
      hvalue 0 (by decide), hvalue 1 (by decide), hvalue 2 (by decide), hvalue 3 (by decide)⟩

/-- Settles O26: an encoder that answers a size has emitted a frame that carries its own checksum; such a frame passes each
of the validator's checks, and its last two bytes are the checksum of its region. -/
theorem encoderRoundTrip : Obligations.EncoderRoundTrip := by
  refine ⟨fun s t i n hs hi h hresp hn => ?_, fun s t cls id hs h => ?_⟩
  · rcases hi with ⟨bufp, key, valp, val, vw, rfl⟩ | ⟨bufp, key, val, rfl⟩ | ⟨bufp, key, val, rfl⟩ | ⟨bufp, key, val, rfl⟩
    · obtain ⟨hfree, ht⟩ := exec_prepcfg_next.1 h
      exact prepareConfigSet_roundTrip hs hfree ht hresp hn
    · obtain ⟨hfree, ht⟩ := exec_prepcfgU1_next.1 h
      exact prepareConfigSet_roundTrip hs hfree ht hresp hn
    · obtain ⟨hfree, ht⟩ := exec_prepcfgU2_next.1 h
      exact prepareConfigSet_roundTrip hs hfree ht hresp hn
    · obtain ⟨hfree, ht⟩ := exec_prepcfgU4_next.1 h
      exact prepareConfigSet_roundTrip hs hfree ht hresp hn
  · obtain ⟨hfree, rfl⟩ := exec_prepcmd_next.1 h
    exact ⟨exec_valpkt_emit_frame hs hfree cls id (p := []) rfl (by decide) rfl,
      exec_cksum_emit_frame hs hfree cls id (p := []) rfl (by decide) rfl⟩

end Sys2Proof.Proofs
end

section
/-!
Proofs about the checksum (spec/41_checksum.md): its closed form, CKSUM's answer, and what one changed byte
does to the checksum and to the validator's verdict.
-/
namespace Sys2Proof

/-! ### The checksum of a sequence from its first byte -/

/-- From any seed: each of the bytes adds the seed's ckA to ckB once more. -/
theorem fletcher_fold_snd (acc : Byte × Byte) (s : List Byte) :
    (s.foldl fletcherStep acc).2 = acc.2 + s.length * acc.1 + (fletcher8 s).2 := by
  induction s using List.reverseRecOn generalizing acc with
  | nil => simp
  | append_singleton s b ih =>
    rw [fletcher8_append_one, List.foldl_append, List.length_append, List.length_singleton, Nat.cast_add,
      Nat.cast_one]
    simp only [List.foldl_cons, List.foldl_nil, fletcherStep, ih, fletcher_fold_fst]
    ring

/-- A byte in front is in ckA once, and in ckB once for itself and once for each byte after it (R122). -/
theorem fletcher8_cons (b : Byte) (s : List Byte) :
    fletcher8 (b :: s) = (b + (fletcher8 s).1, (s.length + 1) * b + (fletcher8 s).2) := by
  have hstep : fletcher8 (b :: s) = s.foldl fletcherStep (b, b) := by simp [fletcher8, fletcherStep]
  rw [hstep, Prod.ext_iff, fletcher_fold_fst, fletcher_fold_snd]
  exact ⟨rfl, by ring⟩

/-- R122, first half. -/
theorem fletcher8_fst_toNat (s : List Byte) :
    (fletcher8 s).1.toNat = ((List.range s.length).map fun i => (s.getD i 0).toNat).sum % 256 := by
  induction s with
  | nil => rfl
  | cons b s ih =>
    rw [fletcher8_cons, List.length_cons, List.range_succ_eq_map]
    simp [ih, Function.comp_def]

/-- R122, second half: a byte put in front takes the new length as its weight and leaves the other weights alone. -/
theorem fletcher8_snd_toNat (s : List Byte) :
    (fletcher8 s).2.toNat = ((List.range s.length).map fun i => (s.length - i) * (s.getD i 0).toNat).sum % 256 := by
  induction s with
  | nil => rfl
  | cons b s ih =>
    rw [fletcher8_cons, List.length_cons, List.range_succ_eq_map]
    simp [ih, Function.comp_def]

/-- Two sequences alike but for one byte have ckA apart by that byte's difference (R125). -/
theorem fletcher8_fst_sub (p q : List Byte) (x y : Byte) :
    (fletcher8 (p ++ x :: q)).1 - (fletcher8 (p ++ y :: q)).1 = x - y := by
  simp only [fletcher8_append_fst, fletcher8_cons]
  ring

theorem fletcher8_fst_ne (p q : List Byte) {x y : Byte} (h : x ≠ y) :
    (fletcher8 (p ++ x :: q)).1 ≠ (fletcher8 (p ++ y :: q)).1 := by
  rw [← sub_ne_zero, fletcher8_fst_sub, sub_ne_zero]
  exact h

end Sys2Proof

namespace Sys2Proof.Machine

/-- CKSUM is refused past the end whatever else holds: the contract is asked before the port (R121, log 11). -/
theorem execCksum_of_pastEnd {ofs count : Half} {s : State} (h : s.cfg.bufferCapacity < ofs.toNat + count.toNat) :
    execCksum true ofs count s = .refused .cksumPastEnd := by rw [execCksum, if_neg (by simp), if_pos h]

/-! ### One byte of a buffer changed -/

theorem buf_setBuffer_bound (s : State) (m : Memory) : (s.setBuffer s.bound m).buf = m := by simp [State.buf]

theorem portFree_setBuffer (s : State) (b : Buffer) (m : Memory) (bufp : Bool) :
    (s.setBuffer b m).portFree bufp = s.portFree bufp := by simp [State.portFree]

/-- A range of a buffer, taken apart at one of its offsets. -/
theorem readBytes_eq_append_cons (m : Memory) {i n a : Nat} (hi : i ≤ a) (hn : a < i + n) :
    m.readBytes i n = m.readBytes i (a - i) ++ m.read a :: m.readBytes (a + 1) (i + n - a - 1) := by
  have hsplit : n = (a - i) + ((i + n - a - 1) + 1) := by omega
  have hat : i + (a - i) = a := by omega
  conv_lhs => rw [hsplit, readBytes_add, hat]
  rfl

/-- The same range after a write at that offset: the bytes around it are as they were. -/
theorem readBytes_write_eq_append_cons {m : Memory} (hm : m.wf = true) {i n a : Nat} (hi : i ≤ a) (hn : a < i + n)
    (v : Byte) :
    (m.write a v).readBytes i n = m.readBytes i (a - i) ++ v :: m.readBytes (a + 1) (i + n - a - 1) := by
  have hbefore : (m.write a v).readBytes i (a - i) = m.readBytes i (a - i) :=
    readBytes_congr fun _ _ _ => read_write_ne m (by omega) v
  have hafter : (m.write a v).readBytes (a + 1) (i + n - a - 1) = m.readBytes (a + 1) (i + n - a - 1) :=
    readBytes_congr fun _ _ _ => read_write_ne m (by omega) v
  rw [readBytes_eq_append_cons _ hi hn, hbefore, hafter, read_write_same hm]

section
variable {c : Config} {m m' : Memory} {size : Half} {cls id : Byte}

/-- The structural checks fix the six header bytes: sync, class and id as asked for, and the length as SIZE says. -/
theorem structureOk_header_unique (h : structureOk c m size cls id) (h' : structureOk c m' size cls id) {a : Nat}
    (ha : a < 6) : m.read a = m'.read a := by
  obtain ⟨-, h0, h1, h2, h3, -, hsize⟩ := h
  obtain ⟨-, h0', h1', h2', h3', -, hsize'⟩ := h'
  have hlen : [m.read 4, m.read 5] = [m'.read 4, m'.read 5] := by
    rw [← bytesLE_le16, ← bytesLE_le16]
    exact congrArg (bytesLE 2) (Nat.add_left_cancel (hsize.symm.trans hsize'))
  obtain ⟨h4, h5⟩ : m.read 4 = m'.read 4 ∧ m.read 5 = m'.read 5 := by simpa using hlen
  interval_cases a
  · rw [h0, h0']
  · rw [h1, h1']
  · rw [h2, h2']
  · rw [h3, h3']
  · exact h4
  · exact h5

theorem declaredLength_write_of_ge {a : Nat} (ha : 6 ≤ a) (v : Byte) :
    declaredLength (m.write a v) = declaredLength m := by
  rw [declaredLength, read_write_ne m (by omega), read_write_ne m (by omega), declaredLength]

/-- The structural checks look at the header alone. -/
theorem structureOk_write_of_ge {a : Nat} (ha : 6 ≤ a) (v : Byte) :
    structureOk c (m.write a v) size cls id ↔ structureOk c m size cls id := by
  have hread {k : Nat} (hk : k < 6) : (m.write a v).read k = m.read k := read_write_ne m (by omega) v
  rw [structureOk, declaredLength_write_of_ge ha, hread (k := 0) (by decide), hread (k := 1) (by decide),
    hread (k := 2) (by decide), hread (k := 3) (by decide), structureOk]

/-- A changed payload byte moves the region's ckA and leaves the checksum bytes: step 7 no longer passes (R125). -/
theorem not_checksumOk_write (hm : m.wf = true) (hck : checksumOk m) {a : Nat} (ha : 6 ≤ a)
    (hlt : a < 6 + declaredLength m) {v : Byte} (hv : v ≠ m.read a) : ¬ checksumOk (m.write a v) := by
  intro hck'
  rw [checksumOk, declaredLength_write_of_ge ha, read_write_ne m (by omega), read_write_ne m (by omega), hck,
    readBytes_eq_append_cons m (a := a) (by omega) (by omega),
    readBytes_write_eq_append_cons hm (by omega) (by omega)] at hck'
  exact fletcher8_fst_ne _ _ hv (congrArg Prod.fst hck').symm

/-- The verdict on an accepted frame after one byte before its checksum bytes is changed (R125, R130). -/
theorem validatePacket_write_of_ok (hm : m.wf = true) (h : validatePacket c true m size cls id = .ok) {a : Nat}
    (ha : a + 2 < size.toNat) {v : Byte} (hv : v ≠ m.read a) :
    validatePacket c true (m.write a v) size cls id = if a < 6 then .error else .checksumError := by
  classical
  obtain ⟨-, hst, hck⟩ := validatePacket_eq_ok.1 h
  rw [validatePacket_eq_ite]
  by_cases hhead : a < 6
  · have hst' : ¬ structureOk c (m.write a v) size cls id := fun hst' =>
      hv ((read_write_same hm a v).symm.trans (structureOk_header_unique hst' hst hhead))
    rw [if_neg hst', if_pos hhead]
  · have hge : 6 ≤ a := Nat.le_of_not_lt hhead
    have hst' := (structureOk_write_of_ge hge v).2 hst
    obtain ⟨-, -, -, -, -, -, hsize⟩ := hst
    have hck' := not_checksumOk_write hm hck hge (by omega) hv
    rw [if_pos hst', if_neg hck', if_neg hhead]

end

end Sys2Proof.Machine

namespace Sys2Proof.Proofs
open Sys2Proof.Machine Sys2Proof.Claims

/-! ### The obligations -/

/-- Settles O28: by induction from the first byte, whose weight in ckB is the length of the whole sequence. -/
theorem fletcherClosedForm : Obligations.FletcherClosedForm :=
  fun s => ⟨fletcher8_fst_toNat s, fletcher8_snd_toNat s⟩

/-- Settles O29: ckA of a sequence is the sum of its parts' ckA, and the parts around the byte cancel. -/
theorem fletcherSeesEverySingleByte : Obligations.FletcherSeesEverySingleByte :=
  fun p q x y => ⟨fletcher8_fst_sub p q x y, fletcher8_fst_ne p q⟩

/-- Settles O35: the structural checks leave the header bytes no other value, and a payload byte changes ckA. -/
theorem singleByteChangeIsRejected : Obligations.SingleByteChangeIsRejected := by
  intro s t size cls id a v hs h hresp ha hv
  obtain ⟨hfree, rfl⟩ := exec_valpkt_next.1 h
  have hok : validatePacket s.cfg true s.buf size cls id = .ok := by simpa using hresp
  refine ⟨_, exec_valpkt_next.2 ⟨by rw [portFree_setBuffer, hfree], rfl⟩, ?_⟩
  rw [respond_resp, setBuffer_cfg, buf_setBuffer_bound, validatePacket_write_of_ok hs hok ha hv]

/-- Settles O27: one more byte, taken from words to numbers. -/
theorem fletcherRecurrence : Obligations.FletcherRecurrence := by
  refine ⟨rfl, fun s b => ?_⟩
  rw [fletcher8_append_one]
  exact ⟨BitVec.toNat_add .., BitVec.toNat_add ..⟩

/-- Settles O30: CKSUM within its contract answers; each breach of the contract (log 11) is its own refusal. -/
theorem cksumAnswersItsRegion : Obligations.CksumAnswersItsRegion := by
  refine ⟨fun s ofs count hfree hin => ?_, fun _ _ _ => rfl, fun s ofs count hpast => ?_⟩
  · rw [bytesAt_eq_readBytes]
    exact execCksum_next.2 ⟨rfl, hin, hfree, rfl⟩
  · exact execCksum_of_pastEnd hpast

end Sys2Proof.Proofs
end

section
/-!
Proofs about the validators (spec/42_validate.md): VALPKT's statuses as conditions on the buffer, VALACK's verdict from
VALPKT's, and VALACK on an acknowledgment that has just arrived.
-/
namespace Sys2Proof.Machine

/-! ### What the validators do with their port free -/

theorem exec_valpkt_of_free {bufp : Bool} {s : State} (h : s.portFree bufp = true) (size : Half) (cls id : Byte) :
    exec (.valpkt bufp size cls id) s = .next (s.respond (.status (validatePacket s.cfg bufp s.buf size cls id))) :=
  onPort_of_free h

theorem exec_valack_of_free {bufp : Bool} {s : State} (h : s.portFree bufp = true) (size : Half) (cls id : Byte) :
    exec (.valack bufp size cls id) s = .next (s.respond (.status (validateAck s.cfg bufp s.buf size cls id))) :=
  onPort_of_free h

/-! ### VALPKT's statuses -/

section
variable {c : Config} {bufp : Bool} {m : Memory} {size : Half} {cls id : Byte}

theorem validatePacket_eq_invalidParam : validatePacket c bufp m size cls id = .invalidParam ↔ bufp = false := by
  cases bufp with
  | false => simp
  | true =>
    rcases validatePacket_cases c m size cls id with ⟨-, e⟩ | ⟨-, -, e⟩ | ⟨-, -, e⟩ <;> simp [e]

theorem validatePacket_eq_error :
    validatePacket c bufp m size cls id = .error ↔ bufp = true ∧ ¬ structureOk c m size cls id := by
  cases bufp with
  | false => simp
  | true =>
    rcases validatePacket_cases c m size cls id with ⟨h, e⟩ | ⟨h, -, e⟩ | ⟨h, -, e⟩ <;> simp [e, h]

theorem validatePacket_eq_checksumError : validatePacket c bufp m size cls id = .checksumError ↔
    bufp = true ∧ structureOk c m size cls id ∧ ¬ checksumOk m := by
  cases bufp with
  | false => simp
  | true =>
    rcases validatePacket_cases c m size cls id with ⟨h, e⟩ | ⟨hs, h, e⟩ | ⟨-, h, e⟩
    · simp [e, h]
    · simp [e, hs, h]
    · simp [e, h]

/-- All seven steps pass on the whole frame of the class and id asked for, and on nothing else (R132). -/
theorem validatePacket_eq_ok_iff_frame : validatePacket c bufp m size cls id = .ok ↔
    bufp = true ∧ ∃ p : List Byte, p.length ≤ c.maxPayload ∧ size.toNat = 8 + p.length ∧
      m.readBytes 0 size.toNat = frame c cls id p := by
  rw [validatePacket_eq_ok]
  refine and_congr_right fun _ => ⟨fun ⟨hst, hck⟩ => ?_, fun ⟨p, hp, hs, h⟩ => ?_⟩
  · obtain ⟨p, a, b, hp, hs, h⟩ := (structureOk_iff ..).1 hst
    obtain ⟨rfl, rfl⟩ := Prod.mk.inj ((checksumOk_iff hp hs h).1 hck)
    exact ⟨p, hp, hs, h⟩
  · exact ⟨(structureOk_iff ..).2 ⟨p, _, _, hp, hs, h⟩, (checksumOk_iff hp hs h).2 rfl⟩

/-- Step 7 alone fails on a frame whose last two bytes are not its checksum, and on nothing else (R132). -/
theorem validatePacket_eq_checksumError_iff_frameWith : validatePacket c bufp m size cls id = .checksumError ↔
    bufp = true ∧ ∃ (p : List Byte) (a b : Byte), p.length ≤ c.maxPayload ∧ size.toNat = 8 + p.length ∧
      m.readBytes 0 size.toNat = frameWith c cls id p a b ∧ (a, b) ≠ regionChecksum cls id p := by
  rw [validatePacket_eq_checksumError]
  refine and_congr_right fun _ => ⟨fun ⟨hst, hck⟩ => ?_, fun ⟨p, a, b, hp, hs, h, hne⟩ => ?_⟩
  · obtain ⟨p, a, b, hp, hs, h⟩ := (structureOk_iff ..).1 hst
    exact ⟨p, a, b, hp, hs, h, (checksumOk_iff hp hs h).not.1 hck⟩
  · exact ⟨(structureOk_iff ..).2 ⟨p, a, b, hp, hs, h⟩, (checksumOk_iff hp hs h).not.2 hne⟩

/-- What passes the structural checks fits the buffer (R133). -/
theorem structureOk_size_le (h : structureOk c m size cls id) : size.toNat ≤ c.bufferCapacity := by
  obtain ⟨-, -, -, -, -, hmax, hsize⟩ := h
  have hcap := maxPayload_eq c
  omega

/-! ### VALACK's verdict from VALPKT's -/

theorem validateAck_of_nack (h : validatePacket c bufp m size c.clsAck c.idAckAck ≠ .ok) (hb : bufp = true)
    (h8 : 8 ≤ size.toNat) (h3 : m.read 3 = c.idAckNak) : validateAck c bufp m size cls id = .error := by
  rw [← overhead_eq c] at h8
  simp only [validateAck]
  rw [if_pos h, if_pos ⟨hb, h8, h3⟩]

theorem validateAck_of_no_nack (h : validatePacket c bufp m size c.clsAck c.idAckAck ≠ .ok)
    (hn : bufp = false ∨ size.toNat < 8 ∨ m.read 3 ≠ c.idAckNak) :
    validateAck c bufp m size cls id = validatePacket c bufp m size c.clsAck c.idAckAck := by
  have hno : ¬ (bufp = true ∧ c.overhead ≤ size.toNat ∧ m.read 3 = c.idAckNak) := by
    rw [overhead_eq]
    rintro ⟨hb, h8, h3⟩
    rcases hn with hn | hn | hn
    · simp [hb] at hn
    · omega
    · exact hn h3
  simp only [validateAck]
  rw [if_pos h, if_neg hno]

theorem validateAck_of_ok (h : validatePacket c bufp m size c.clsAck c.idAckAck = .ok) :
    validateAck c bufp m size cls id = if m.read 6 ≠ cls ∨ m.read 7 ≠ id then .error else .ok := by
  simp only [validateAck]
  rw [if_neg (not_not_intro h)]

/-- An inner Error comes out as an Error, from either branch (R135). -/
theorem validateAck_of_error (h : validatePacket c bufp m size c.clsAck c.idAckAck = .error) :
    validateAck c bufp m size cls id = .error := by
  simp [validateAck, h]

theorem validateAck_eq_ok : validateAck c bufp m size cls id = .ok ↔
    validatePacket c bufp m size c.clsAck c.idAckAck = .ok ∧ m.read 6 = cls ∧ m.read 7 = id := by
  by_cases h : validatePacket c bufp m size c.clsAck c.idAckAck = .ok
  · rw [validateAck_of_ok h]
    simp [h]
  · have hne : validateAck c bufp m size cls id ≠ .ok := by
      simp only [validateAck]
      rw [if_pos h]
      split
      · exact nofun
      · exact h
    exact iff_of_false hne fun ⟨hok, _⟩ => h hok

/-- By the one requirement R9 puts on the parameters, offset 3 of a Nack fails VALPKT's step 4 (R136). -/
theorem validatePacket_of_nack (hc : c.wf = true) (hb : bufp = true) (h3 : m.read 3 = c.idAckNak) :
    validatePacket c bufp m size c.clsAck c.idAckAck = .error := by
  refine validatePacket_eq_error.2 ⟨hb, fun ⟨_, _, _, _, hid, _⟩ => ?_⟩
  have hne : c.idAckNak ≠ c.idAckAck := by simpa [Config.wf] using hc
  exact hne (h3.symm.trans hid)

/-- Without the Nack branch VALACK answers the same (R136). -/
theorem validateAck_eq_without_nack (hc : c.wf = true) : validateAck c bufp m size cls id =
    if validatePacket c bufp m size c.clsAck c.idAckAck ≠ .ok then validatePacket c bufp m size c.clsAck c.idAckAck
    else if m.read 6 ≠ cls ∨ m.read 7 ≠ id then .error else .ok := by
  by_cases h : validatePacket c bufp m size c.clsAck c.idAckAck = .ok
  · rw [validateAck_of_ok h, if_neg (not_not_intro h)]
  rw [if_pos h]
  cases bufp with
  | false => exact validateAck_of_no_nack h (.inl rfl)
  | true =>
    by_cases h3 : m.read 3 = c.idAckNak
    · have herror := validatePacket_of_nack (size := size) hc rfl h3
      rw [validateAck_of_error herror, herror]
    · exact validateAck_of_no_nack h (.inr (.inr h3))

end

/-! ### VALACK on a whole Ack-class frame, and on what has just arrived -/

/-- The payload bytes of a ten-byte frame are where the echo is looked for (R135). -/
theorem read_echo_of_holds {c : Config} {m : Memory} {cls id x y : Byte}
    (h : m.readBytes 0 10 = frame c cls id [x, y]) : m.read 6 = x ∧ m.read 7 = y := by
  have hx := read_of_holds h (k := 6) (by decide)
  have hy := read_of_holds h (k := 7) (by decide)
  simp only [frame_eq, List.cons_append, List.getElem?_cons_succ, List.getElem?_cons_zero, Option.some.injEq] at hx hy
  exact ⟨hx.symm, hy.symm⟩

/-- At SIZE 10 an accepted Ack has two payload bytes, and they are the ones compared (R138). -/
theorem validateAck_ten_eq_ok {c : Config} {bufp : Bool} {m : Memory} {cls id : Byte} :
    validateAck c bufp m 10 cls id = .ok ↔
      bufp = true ∧ m.readBytes 0 10 = frame c c.clsAck c.idAckAck [cls, id] := by
  have htwo : 2 ≤ c.maxPayload := by
    have hcap := bufferCapacity_ge c
    have hmax := maxPayload_eq c
    omega
  have hten : (10 : Half).toNat = 10 := rfl
  rw [validateAck_eq_ok, validatePacket_eq_ok_iff_frame, hten]
  constructor
  · rintro ⟨⟨hb, p, -, hs, h⟩, h6, h7⟩
    obtain ⟨x, y, rfl⟩ := List.length_eq_two.1 (by omega : p.length = 2)
    obtain ⟨hx, hy⟩ := read_echo_of_holds h
    obtain rfl := hx.symm.trans h6
    obtain rfl := hy.symm.trans h7
    exact ⟨hb, h⟩
  · rintro ⟨hb, h⟩
    exact ⟨⟨hb, [cls, id], htwo, rfl, h⟩, read_echo_of_holds h⟩

/-- An accepted Ack with no payload has its checksum bytes where the echo is looked for (R137, log 9). -/
theorem validateAck_eight_eq_ok {c : Config} {m : Memory} {cls id : Byte}
    (h : m.readBytes 0 8 = frame c c.clsAck c.idAckAck []) :
    validateAck c true m 8 cls id = .ok ↔ (cls, id) = regionChecksum c.clsAck c.idAckAck [] := by
  have hok : validatePacket c true m 8 c.clsAck c.idAckAck = .ok :=
    validatePacket_eq_ok_iff_frame.2 ⟨rfl, [], Nat.zero_le _, rfl, h⟩
  have hA : some (regionChecksum c.clsAck c.idAckAck []).1 = some (m.read 6) :=
    (frameWith_ckA ..).symm.trans (read_of_holds h (by decide))
  have hB : some (regionChecksum c.clsAck c.idAckAck []).2 = some (m.read 7) :=
    (frameWith_ckB ..).symm.trans (read_of_holds h (by decide))
  rw [validateAck_eq_ok, ← Option.some.inj hA, ← Option.some.inj hB, Prod.ext_iff]
  exact ⟨fun ⟨_, h6, h7⟩ => ⟨h6.symm, h7.symm⟩, fun ⟨h6, h7⟩ => ⟨hok, h6.symm, h7.symm⟩⟩

/-- Ten bytes that have just arrived in the bound buffer stand there, the receive over, and VALACK at the recorded length
judges them. -/
theorem exec_valack_arrived {s t : State} (hw : s.rx.wf = true) {bytes : List Byte} (hl : bytes.length = 10)
    (ht : receiveBytes bytes s = .next t) (hb : t.bound = .rx) (cls id : Byte) :
    t.rx.readBytes 0 10 = bytes ∧ exec (.valack true t.dev.rxLen cls id) t =
      .next (t.respond (.status (validateAck s.cfg true t.rx 10 cls id))) := by
  obtain ⟨-, rfl⟩ := receiveBytes_next.1 ht
  have hfree : (s.received bytes).portFree true = true := (portFree_true _).2 (by rw [hb]; rfl)
  refine ⟨?_, ?_⟩
  · rw [received_rx, ← hl, readBytes_writeBytes hw]
  · rw [exec_valack_of_free hfree, State.buf, hb, received_dev, hl]
    rfl

end Sys2Proof.Machine

namespace Sys2Proof.Proofs
open Sys2Proof.Machine Sys2Proof.Claims

/-! ### The obligations -/

/-- Settles O31: each of steps 2 to 6 is one conjunct of the structural checks, and step 7 is the checksum's. -/
theorem valpktStepsInOrder : Obligations.ValpktStepsInOrder := by
  refine ⟨fun s size cls id => rfl, fun s size cls id hfree => ⟨_, _, exec_valpkt_of_free hfree size cls id, rfl, ?_⟩⟩
  have herror (h : ¬ structureOk s.cfg s.buf size cls id) :
      validatePacket s.cfg true s.buf size cls id = .error := validatePacket_eq_error.2 ⟨rfl, h⟩
  refine ⟨fun h => herror fun ⟨h8, _⟩ => by omega,
    fun _ h => herror fun ⟨_, h0, h1, _⟩ => h.elim (· h0) (· h1),
    fun _ _ _ h => herror fun ⟨_, _, _, h2, h3, _⟩ => h.elim (· h2) (· h3), ?_⟩
  intro h8 h0 h1 h2 h3 length hlength
  obtain rfl : length = declaredLength s.buf := hlength
  refine ⟨fun h => herror fun ⟨_, _, _, _, _, hmax, _⟩ => by omega,
    fun _ h => herror fun ⟨_, _, _, _, _, _, hsize⟩ => by omega, fun hmax hsize => ?_⟩
  have hst : structureOk s.cfg s.buf size cls id := ⟨h8, h0, h1, h2, h3, hmax, by omega⟩
  rw [bytesAt_eq_readBytes]
  refine ⟨fun h => validatePacket_eq_checksumError.2 ⟨rfl, hst, fun hck => ?_⟩,
    fun hA hB => validatePacket_eq_ok.2 ⟨rfl, hst, Prod.ext hA hB⟩⟩
  exact h.elim (· (congrArg Prod.fst hck)) (· (congrArg Prod.snd hck))

/-- Settles O32: the structural checks pass exactly on frames, and then the checksum decides. -/
theorem valpktAcceptsExactlyFrames : Obligations.ValpktAcceptsExactlyFrames := by
  intro s bufp size cls id hfree
  refine ⟨_, _, exec_valpkt_of_free hfree size cls id, rfl, ?_, ?_, validatePacket_eq_invalidParam, ?_⟩
  · rw [bytesAt_eq_readBytes]
    exact validatePacket_eq_ok_iff_frame
  · rw [bytesAt_eq_readBytes]
    exact validatePacket_eq_checksumError_iff_frameWith
  · rcases validatePacket_isVerdict s.cfg bufp s.buf size cls id with h | h | h | h <;> simp [h]

/-- Settles O34: a SIZE above the capacity fails the structural checks, and VALACK passes that Error on. -/
theorem oversizedSizeIsRejected : Obligations.OversizedSizeIsRejected := by
  intro s size cls id hfree hsize
  have herror (cls id : Byte) : validatePacket s.cfg true s.buf size cls id = .error :=
    validatePacket_eq_error.2 ⟨rfl, fun hst => Nat.not_lt.2 (structureOk_size_le hst) hsize⟩
  rw [exec_valpkt_of_free hfree, exec_valack_of_free hfree, herror, validateAck_of_error (herror ..)]
  exact ⟨rfl, rfl⟩

/-- Settles O36: VALACK's branches, one law each. -/
theorem valackVerdict : Obligations.ValackVerdict := by
  intro s bufp size cls id hfree
  refine ⟨_, _, exec_valpkt_of_free hfree .., exec_valack_of_free hfree .., validateAck_of_nack, validateAck_of_no_nack,
    fun h he => ?_, fun h h6 h7 => validateAck_eq_ok.2 ⟨h, h6, h7⟩⟩
  rw [validateAck_of_ok h, if_pos he]

/-- Settles O37: where the Nack branch would be taken the inner status is Error already. -/
theorem valackNackBranchIsInvisible : Obligations.ValackNackBranchIsInvisible := by
  intro s bufp size cls id hc hfree
  refine ⟨_, exec_valpkt_of_free hfree .., fun hb _ h3 => validatePacket_of_nack hc hb h3, ?_⟩
  rw [exec_valack_of_free hfree, validateAck_eq_without_nack hc]
  rfl

/-- Settles O38: an accepted ten-byte Ack is the frame of its own two payload bytes, and the echo says which they are. -/
theorem tenByteAckMatchesItsCommand : Obligations.TenByteAckMatchesItsCommand := by
  intro s bufp cls id hfree
  rw [bytesAt_eq_readBytes]
  exact ⟨_, _, exec_valack_of_free hfree .., rfl, validateAck_ten_eq_ok⟩

/-- Settles O39: the zero-length frame is accepted, so the echo comparison decides, on its checksum bytes. -/
theorem zeroLengthAckComparesItsChecksum : Obligations.ZeroLengthAckComparesItsChecksum := by
  intro s cls id hfree h
  rw [bytesAt_eq_readBytes] at h
  rw [← validateAck_eight_eq_ok h, exec_valack_of_free hfree]
  refine ⟨fun he => ?_, fun hok => by rw [hok]; rfl⟩
  simpa using congrArg State.resp (Host.Outcome.next.inj he)

/-- Settles O43: what has arrived is ten bytes that read as the Ack or the Nack, and VALACK judges those (R135). -/
theorem arrivedAcknowledgmentsAreJudged : Obligations.ArrivedAcknowledgmentsAreJudged := by
  refine ⟨fun s t x y a b cls id hw hc ht hb => ?_, fun s t x y a b cls id hw hc ht hb => ?_⟩
  · obtain ⟨hholds, e⟩ := exec_valack_arrived hw (frameWith_length ..) ht hb cls id
    rw [e, validateAck_ack hc hholds]
    rfl
  · obtain ⟨hholds, e⟩ := exec_valack_arrived hw (frameWith_length ..) ht hb cls id
    rw [e, validateAck_nak hc hholds]
    rfl

end Sys2Proof.Proofs
end

section
/-!
Proofs about the host's driver (spec/49_host_driver.md): the ends of transfers, what each call of the driver does, how
`init` ends, and several Devices side by side.
-/
namespace Sys2Proof.Machine
open Sys2Proof.Claims

/-! ### The host's calls and the ends of transfers, case by case -/

theorem receiveLapsed_of_awaited {s : State} {n : Nat} (h : s.dev.rxAwaited = some n) (bytes : List Byte) :
    receiveLapsed bytes s = s.received (bytes.take n) := by simp only [receiveLapsed, h]

theorem receiveLapsed_of_not_awaited {s : State} (h : s.dev.rxAwaited = none) (bytes : List Byte) :
    receiveLapsed bytes s = s := by simp only [receiveLapsed, h]

theorem driverCommand_of_gated {s : State} {t : CommandType} (h : s.dev.initialized = false ∨ t ≠ .readNavPvt)
    (r : BusResult) : driverCommand t r s = .next (s.returnStatus .invalidParam) := if_pos h

theorem driverRead_of_gated {s : State} (h : s.dev.initialized = false ∨ s.dev.currentCommand ≠ .readNavPvt)
    (r : BusResult) (bytes : List Byte) : driverRead r bytes s = .next (s.returnStatus .invalidParam) := if_pos h

theorem driverValidate_of_unsupported {t : CommandType} (h : t ≠ .readNavPvt) (s : State) :
    driverValidate t s = .next (s.returnStatus .invalidParam) := if_pos h

theorem driverCommand_completes {s : State} (hi : s.dev.initialized = true) (hb : s.dev.txBusy = false)
    (r : BusResult) : ∃ u, driverCommand .readNavPvt r s = .next u := by
  have hfree : (s.bindTo .tx).portFree true = true := (portFree_true _).2 hb
  rw [driverCommand, if_neg (by simp [hi]), execPrepcmd, onPort_of_free hfree, andThen_next]
  cases r <;> exact ⟨_, rfl⟩

theorem driverValidate_of_free {s : State} (h : s.dev.rxAwaited = none) :
    driverValidate .readNavPvt s = .next (((s.bindTo .rx).respond (.status
      (validatePacket s.cfg true s.rx s.validateSize s.cfg.clsNav s.cfg.idNavPvt))).returnStatus
      (validatePacket s.cfg true s.rx s.validateSize s.cfg.clsNav s.cfg.idNavPvt)) := by
  have hfree : (s.bindTo .rx).portFree true = true := (portFree_true _).2 (by simp [h])
  rw [driverValidate, if_neg (by simp), execValpkt, onPort_of_free hfree]
  rfl

theorem useDevice_of_present {s : State} {k : Nat} {i : Instance} (h : s.others[k]? = some i) :
    useDevice k s = .next { s with tx := i.tx, rx := i.rx, dev := i.dev, others := s.others.set k s.inHand } := by
  simp only [useDevice, h]

theorem useDevice_of_absent {s : State} {k : Nat} (h : s.others.length ≤ k) :
    useDevice k s = .fault .deviceAbsent := by
  simp only [useDevice, List.getElem?_eq_none h]

/-! ### `read`, and the three ends of its receive -/

theorem receiveExactly_of_failed {r : BusResult} (h : r ≠ .done) (n : Nat) (bytes : List Byte) (s : State)
    (k : State → Host.Outcome State Fault Refusal) :
    receiveExactly n r bytes s k = .next (receiveFailed n r bytes s) := by
  cases r with
  | done => exact absurd rfl h
  | timedOut => rfl
  | failed => rfl

theorem receiveExactly_of_length_ne {n : Nat} {bytes : List Byte} (h : bytes.length ≠ n) (s : State)
    (k : State → Host.Outcome State Fault Refusal) :
    receiveExactly n .done bytes s k = .refused .transferLengthMismatch := if_pos h

theorem receiveExactly_of_accepts {n : Nat} {bytes : List Byte} (hl : bytes.length = n) {s : State}
    (h : s.accepts bytes.length = true) (k : State → Host.Outcome State Fault Refusal) :
    receiveExactly n .done bytes s k = k (s.received bytes) := by
  rw [receiveExactly, if_neg (not_not_intro hl), receiveBytes_next.2 ⟨h, rfl⟩, andThen_next]

/-- Bytes from the bus are received as they come, whether or not they are a frame (R40, logs 3, 24). -/
theorem runWord_wire (bytes : List Byte) (s : State) : runWord (.wire bytes) s = receiveBytes bytes s := by
  cases hd : decode s.cfg (.wire bytes) with
  | error e => exact runWord_of_decode_error hd
  | ok i =>
    obtain ⟨cls, id, p, a, b, -, rfl, rfl⟩ := decodeFrame_ok hd
    rw [runWord_of_decode_ok hd, exec_of_frame (isRequest_classifyFrame ..), frameBytes_classifyFrame]

section
variable {s : State} (hi : s.dev.initialized = true) (hc : s.dev.currentCommand = .readNavPvt)
  (ha : s.dev.rxAwaited = none)
include hi hc ha

theorem driverRead_of_no_room (hcap : s.cfg.bufferCapacity < 100) (r : BusResult) (bytes : List Byte) :
    driverRead r bytes s = .fault .offsetOutsideBuffer := by
  rw [driverRead, if_neg (by simp [hi, hc]), if_neg (by simp [ha]), if_pos (by simpa using hcap)]

variable (hcap : 100 ≤ s.cfg.bufferCapacity)
include hcap

theorem driverRead_of_room (r : BusResult) (bytes : List Byte) : driverRead r bytes s =
    if s.dev.transport.style = .eventDriven ∧ r = .done then
      .next (((s.asksReceive 100).withAwaited (some 100)).returnStatus .ok)
    else receiveExactly 100 r bytes (s.asksReceive 100) fun s1 => .next (s1.returnStatus .ok) := by
  rw [driverRead, if_neg (by simp [hi, hc]), if_neg (by simp [ha]), if_neg (by simpa using hcap), responseSize_eq]

theorem driverRead_of_failed {r : BusResult} (hr : r ≠ .done) (bytes : List Byte) :
    driverRead r bytes s = .next (receiveFailed 100 r bytes (s.asksReceive 100)) := by
  rw [driverRead_of_room hi hc ha hcap, if_neg (hr ·.2), receiveExactly_of_failed hr]

theorem driverRead_of_eventDriven (hst : s.dev.transport.style = .eventDriven) (bytes : List Byte) :
    driverRead .done bytes s = .next (((s.asksReceive 100).withAwaited (some 100)).returnStatus .ok) := by
  rw [driverRead_of_room hi hc ha hcap, if_pos ⟨hst, rfl⟩]

theorem driverRead_of_blocking (hst : s.dev.transport.style = .blocking) (bytes : List Byte) :
    driverRead .done bytes s =
      receiveExactly 100 .done bytes (s.asksReceive 100) fun s1 => .next (s1.returnStatus .ok) := by
  rw [driverRead_of_room hi hc ha hcap, if_neg (by simp [hst])]

end

/-- Where no receive was in flight, one that ends moves the receive buffer, its length and the status returned. -/
theorem received_returnStatus {s : State} (h : s.dev.rxAwaited = none) (bytes : List Byte) (st : Status) :
    (s.received bytes).returnStatus st = { s with
      rx := s.rx.writeBytes 0 bytes
      dev := { s.dev with rxLen := BitVec.ofNat 16 bytes.length, result := some st } } := by
  rw [State.returnStatus, received_dev, ← h]
  rfl

/-! ### `init`: its two rounds -/

theorem toTransport_complete_iff {c : DriverConfig} :
    c.toTransport.complete = true ↔ c.hasTransmit = true ∧ c.hasReceive = true ∧ c.hasDelay = true := by
  simp [Transport.complete, DriverConfig.toTransport, and_assoc]

theorem driverInit_of_incomplete {c : DriverConfig} (h : c.toTransport.complete = false) (h1 h2 : Handshake)
    (s : State) : driverInit c h1 h2 s = .next ((s.withInitialized false).returnStatus .invalidParam) := if_pos h

/-- What follows an accepted first round of `init`: the second, and then the gate opens (R152). -/
def secondRound (h : Handshake) (s : State) : Host.Outcome State Fault Refusal :=
  handshakeRound s.cfg.itemNmea 0 h s fun s2 => .next ((s2.withInitialized true).returnStatus .ok)

theorem driverInit_of_free {s : State} {c : DriverConfig} (hc : c.toTransport.complete = true)
    (hb : s.dev.txBusy = false) (ha : s.dev.rxAwaited = none) (h1 h2 : Handshake) :
    driverInit c h1 h2 s = handshakeRound s.cfg.itemUbx 1 h1 (s.zeroed c.toTransport) (secondRound h2) := by
  rw [driverInit, if_neg (by simp [hc]), if_neg (by simp [hb, ha])]
  rfl

/-- What each round of `init` finds: the block's parameters, the transport as given, buffers in the canonical form, the
gate shut, no command and no transfer in flight. -/
structure RoundReady (p : Config) (c : DriverConfig) (s : State) : Prop where
  cfg : s.cfg = p
  transport : s.dev.transport = c.toTransport
  tx_wf : s.tx.wf = true
  rx_wf : s.rx.wf = true
  initialized : s.dev.initialized = false
  currentCommand : s.dev.currentCommand = .none
  txBusy : s.dev.txBusy = false
  awaited : s.dev.rxAwaited = none

theorem roundReady_zeroed (s : State) (c : DriverConfig) : RoundReady s.cfg c (s.zeroed c.toTransport) :=
  ⟨rfl, rfl, rfl, rfl, rfl, rfl, rfl, rfl⟩

section
variable {p : Config} {c : DriverConfig} {item : ConfigItem} {val : Word} {h : Handshake} {s : State}
  (r : RoundReady p c s)
include r

theorem RoundReady.style : s.dev.transport.style = c.style := congrArg Transport.style r.transport

/-- A round leaves the next one what it found itself. -/
theorem RoundReady.after {bs : List Byte} {n : Nat} {u : State} (e : RoundEffect item val bs n s u) :
    RoundReady p c u where
  cfg := e.cfg.trans r.cfg
  transport := e.transport.trans r.transport
  tx_wf := e.tx ▸ writeBytes_wf r.tx_wf 0 _
  rx_wf := e.rx ▸ writeBytes_wf r.rx_wf 0 _
  initialized := e.initialized.trans r.initialized
  currentCommand := e.currentCommand.trans r.currentCommand
  txBusy := e.txBusy.trans r.txBusy
  awaited := e.awaited.elim (·.trans r.awaited) id

/-- A round completes when what follows an accepted one does: a receive that ends well gives the ten bytes declared. -/
theorem handshakeRound_completes {k : State → Host.Outcome State Fault Refusal}
    (hl : h.got = .done → h.ack.length = 10) (hk : ∀ u, RoundReady p c u → ∃ t, k u = .next t) :
    ∃ t, handshakeRound item val h s k = .next t := by
  by_cases hs : h.sent = .done
  · cases hd : settles s.dev.transport.style h.settled with
    | false => exact ⟨_, by rw [handshakeRound_eq _ _ _ _ _ r.txBusy, if_neg (not_not_intro hs), if_pos hd]⟩
    | true =>
      by_cases hg : h.got = .done
      · obtain ⟨u, e, hresp, -, heff, -⟩ :=
          handshakeRound_accepted (item := item) (val := val) k r.txBusy r.awaited hs hd hg (hl hg) rfl
        rw [e, onAck, hresp]
        cases validateAck s.cfg true (s.rx.writeBytes 0 h.ack) 10 s.cfg.clsCfg s.cfg.idCfgValset with
        | ok => exact hk u (r.after heff)
        | _ => exact ⟨_, rfl⟩
      · exact ⟨_, by rw [handshakeRound_eq _ _ _ _ _ r.txBusy, if_neg (not_not_intro hs), if_neg (by simp [hd]),
          receiveExactly_of_failed hg]⟩
  · exact ⟨_, by rw [handshakeRound_eq _ _ _ _ _ r.txBusy, if_pos hs]⟩

end

theorem driverInit_completes {s : State} {c : DriverConfig} {h1 h2 : Handshake} (hc : c.toTransport.complete = true)
    (hb : s.dev.txBusy = false) (ha : s.dev.rxAwaited = none) (hl1 : h1.got = .done → h1.ack.length = 10)
    (hl2 : h2.got = .done → h2.ack.length = 10) : ∃ t, driverInit c h1 h2 s = .next t := by
  rw [driverInit_of_free hc hb ha]
  exact handshakeRound_completes (roundReady_zeroed s c) hl1 fun v rv =>
    handshakeRound_completes rv hl2 fun _ _ => ⟨_, rfl⟩

/-! ### The address handed to the transport -/

theorem busAddress_toNat (a : BitVec 7) : (busAddress a).toNat = 2 * a.toNat := by
  have ha := a.isLt
  simp only [busAddress, BitVec.toNat_shiftLeft, BitVec.toNat_setWidth, Nat.shiftLeft_eq]
  omega

theorem busAddress_eq (a : BitVec 7) : busAddress a = BitVec.ofNat 8 (2 * a.toNat) := by
  rw [← busAddress_toNat, BitVec.ofNat_toNat, BitVec.setWidth_eq]

/-! ### The transport configuration and the gate -/

/-- The transport configuration and the gate of the Device in hand are as they were. -/
def SameTransport (s t : State) : Prop :=
  t.dev.transport = s.dev.transport ∧ t.dev.initialized = s.dev.initialized

theorem SameTransport.of_dev_eq {s t : State} (h : t.dev = s.dev) : SameTransport s t :=
  ⟨congrArg Device.transport h, congrArg Device.initialized h⟩

theorem WordEffect.sameTransport {s t : State} (e : WordEffect s t) : SameTransport s t := by
  cases e with
  | answered r => exact .of_dev_eq (respond_dev s r)
  | emitted bytes => exact .of_dev_eq (emit_dev s bytes)
  | arrived bytes => exact ⟨rfl, rfl⟩

theorem perform_sameTransport {a : HostAct} {s t : State} (h : perform a s = .next t)
    (hinit : ∀ c h1 h2, a ≠ .driverInit c h1 h2) (huse : ∀ k, a ≠ .use k) : SameTransport s t := by
  cases a with
  | word p => exact (runWord_effect h).sameTransport
  | bind b => cases h; exact ⟨rfl, rfl⟩
  | poke b offset v => obtain ⟨-, rfl⟩ := hostPoke_next h; exact .of_dev_eq (setBuffer_dev ..)
  | transmitEnded => cases h; exact ⟨rfl, rfl⟩
  | receiveLapsed bytes =>
    cases h
    rcases receiveLapsed_cases bytes s with e | ⟨n, -, e⟩ <;> rw [e] <;> exact ⟨rfl, rfl⟩
  | delayElapsed => cases h; exact ⟨rfl, rfl⟩
  | construct => cases h; exact ⟨rfl, rfl⟩
  | use k => exact absurd rfl (huse k)
  | driverInit c h1 h2 => exact absurd rfl (hinit c h1 h2)
  | driverCommand c r =>
    rcases driverCommand_next h with ⟨-, rfl⟩ | ⟨-, -, -, rfl⟩
    · exact ⟨rfl, rfl⟩
    · simp [SameTransport]
  | driverRead r bytes =>
    rcases driverRead_next h with rfl | ⟨-, rfl | rfl | ⟨-, rfl⟩⟩ <;> exact ⟨rfl, rfl⟩
  | driverValidate c =>
    rcases driverValidate_next h with rfl | ⟨st, rfl⟩ <;> exact ⟨rfl, rfl⟩

/-! ### Other Devices beside the one in hand -/

/-- The same state with other Devices beside the one in hand. -/
def State.beside (s : State) (l : List Instance) : State := { s with others := l }

/-- What `f` does comes out the same whatever other Devices there are. -/
def IgnoresOthers (f : State → Host.Outcome State Fault Refusal) : Prop := ∀ s l, f (s.beside l) = withOthers l (f s)

/-- What ignores the other Devices leaves them as they are: the very ones it has, put beside it, make no difference. -/
theorem IgnoresOthers.others_eq {f : State → Host.Outcome State Fault Refusal} (hf : IgnoresOthers f) {s t : State}
    (h : f s = .next t) : t.others = s.others := by
  have hsame : f s = withOthers s.others (f s) := hf s s.others
  rw [h] at hsame
  have hputBack : t = { t with others := s.others } := Host.Outcome.next.inj hsame
  rw [hputBack]

theorem emit_beside (s : State) (bytes : List Byte) (l : List Instance) :
    (s.beside l).emit bytes = (s.emit bytes).beside l := by
  obtain ⟨cfg, tx, rx, bound⟩ := s
  cases bound <;> rfl

theorem prepareConfigSet_beside {bufp : Bool} {key : Word} {valp : Bool} {val : Word} {w : Nat} (s : State)
    (l : List Instance) :
    prepareConfigSet bufp key valp val w (s.beside l) = (prepareConfigSet bufp key valp val w s).beside l := by
  rw [prepareConfigSet_eq, prepareConfigSet_eq, apply_ite (State.beside · l), ← emit_beside]
  rfl

theorem onPort_beside (bufp : Bool) (s after : State) (l : List Instance) :
    onPort bufp (s.beside l) (after.beside l) = withOthers l (onPort bufp s after) := by
  rw [onPort, onPort, apply_ite (withOthers l)]
  rfl

/-- An operation whose end is the same beside any other Devices. -/
theorem IgnoresOthers.of_onPort {f : State → Host.Outcome State Fault Refusal} (bufp : Bool) (after : State → State)
    (hf : ∀ s, f s = onPort bufp s (after s)) (h : ∀ s l, after (s.beside l) = (after s).beside l) : IgnoresOthers f :=
  fun s l => by rw [hf, hf, h, onPort_beside]

theorem receiveBytes_ignoresOthers (bytes : List Byte) : IgnoresOthers (receiveBytes bytes) := by
  intro s l
  rw [receiveBytes, receiveBytes, apply_ite (withOthers l), apply_ite (withOthers l)]
  rfl

theorem execCksum_ignoresOthers (bufp : Bool) (ofs count : Half) : IgnoresOthers (execCksum bufp ofs count) := by
  intro s l
  rw [execCksum, execCksum, apply_ite (withOthers l), apply_ite (withOthers l), ← onPort_beside]
  rfl

theorem exec_ignoresOthers (i : Instr) : IgnoresOthers (exec i) := by
  cases i with
  | prepcmd bufp cls id =>
    refine .of_onPort bufp _ (fun _ => rfl) fun s l => ?_
    cases bufp
    · rfl
    · exact emit_beside s _ l
  | prepcfg bufp => exact .of_onPort bufp _ (fun _ => rfl) prepareConfigSet_beside
  | prepcfgU1 bufp => exact .of_onPort bufp _ (fun _ => rfl) prepareConfigSet_beside
  | prepcfgU2 bufp => exact .of_onPort bufp _ (fun _ => rfl) prepareConfigSet_beside
  | prepcfgU4 bufp => exact .of_onPort bufp _ (fun _ => rfl) prepareConfigSet_beside
  | cksum bufp ofs count => exact execCksum_ignoresOthers bufp ofs count
  | valpkt bufp => exact .of_onPort bufp _ (fun _ => rfl) fun _ _ => rfl
  | valack bufp => exact .of_onPort bufp _ (fun _ => rfl) fun _ _ => rfl
  | _ => exact fun s l => receiveBytes_ignoresOthers (frameBytes s.cfg _) s l

theorem runWord_ignoresOthers (p : PortWord) : IgnoresOthers (runWord p) := by
  cases p with
  | request w => exact exec_ignoresOthers _
  | wire bytes =>
    intro s l
    rw [runWord_wire, runWord_wire]
    exact receiveBytes_ignoresOthers bytes s l

theorem hostPoke_ignoresOthers (b : Buffer) (offset : Nat) (v : Byte) : IgnoresOthers (hostPoke b offset v) := by
  intro s l
  rw [hostPoke, hostPoke, apply_ite (withOthers l), apply_ite (withOthers l)]
  cases b <;> rfl

theorem receiveLapsed_beside (bytes : List Byte) (s : State) (l : List Instance) :
    receiveLapsed bytes (s.beside l) = (receiveLapsed bytes s).beside l := by
  cases h : s.dev.rxAwaited with
  | none => rw [receiveLapsed_of_not_awaited h, receiveLapsed_of_not_awaited (s := s.beside l) h]
  | some n =>
    rw [receiveLapsed_of_awaited h, receiveLapsed_of_awaited (s := s.beside l) h]
    rfl

section
variable {k : State → Host.Outcome State Fault Refusal} (hk : IgnoresOthers k)
include hk

theorem andThen_ignoresOthers {f : State → Host.Outcome State Fault Refusal} (hf : IgnoresOthers f) (s : State)
    (l : List Instance) : andThen (f (s.beside l)) k = withOthers l (andThen (f s) k) := by
  rw [hf s l]
  cases f s with
  | next t => exact hk t l
  | fault r => rfl
  | refused r => rfl

theorem onSize_ignoresOthers (s : State) (l : List Instance) :
    onSize (s.beside l) k = withOthers l (onSize s k) := by
  have h : (s.beside l).resp = s.resp := rfl
  rw [onSize, onSize, h]
  rcases s.resp with _ | ⟨n | st | ⟨a, b⟩⟩
  · rfl
  · exact hk (s.withTxLen n) l
  · rfl
  · rfl

theorem onAck_ignoresOthers (s : State) (l : List Instance) : onAck (s.beside l) k = withOthers l (onAck s k) := by
  have h : (s.beside l).resp = s.resp := rfl
  rw [onAck, onAck, h]
  rcases s.resp with _ | ⟨n | st | ⟨a, b⟩⟩
  · rfl
  · rfl
  · cases st
    · exact hk s l
    all_goals rfl
  · rfl

theorem receiveExactly_ignoresOthers (n : Nat) (r : BusResult) (bytes : List Byte) (s : State) (l : List Instance) :
    receiveExactly n r bytes (s.beside l) k = withOthers l (receiveExactly n r bytes s k) := by
  cases r with
  | done =>
    rw [receiveExactly, receiveExactly, apply_ite (withOthers l),
      ← andThen_ignoresOthers hk (receiveBytes_ignoresOthers bytes)]
    rfl
  | timedOut => rfl
  | failed => rfl

/-- A round of `init` looks at the Device in hand and the parameters alone. -/
theorem handshakeRound_ignoresOthers (item : ConfigItem) (val : Word) (h : Handshake) (s : State) (l : List Instance) :
    handshakeRound item val h (s.beside l) k = withOthers l (handshakeRound item val h s k) := by
  refine andThen_ignoresOthers (fun s1 l => onSize_ignoresOthers (fun s2 l => ?_) s1 l) (exec_ignoresOthers _)
    (s.bindTo .tx) l
  rw [apply_ite (withOthers l), apply_ite (withOthers l)]
  refine if_congr Iff.rfl rfl (if_congr Iff.rfl rfl ?_)
  refine receiveExactly_ignoresOthers (fun s3 l => ?_) _ _ _
    ((s2.asksTransmit.asksDelay.withDelayDone true).asksReceive _) l
  exact andThen_ignoresOthers (fun s4 l => onAck_ignoresOthers hk s4 l) (exec_ignoresOthers (.valack ..))
    (s3.bindTo .rx) l

end

theorem driverInit_ignoresOthers (c : DriverConfig) (h1 h2 : Handshake) : IgnoresOthers (driverInit c h1 h2) := by
  intro s l
  rw [driverInit, driverInit, apply_ite (withOthers l), apply_ite (withOthers l)]
  refine if_congr Iff.rfl rfl (if_congr Iff.rfl rfl ?_)
  refine handshakeRound_ignoresOthers (fun s1 l => ?_) _ _ _ (s.zeroed c.toTransport) l
  exact handshakeRound_ignoresOthers (fun _ _ => rfl) _ _ _ s1 l

theorem driverCommand_ignoresOthers (t : CommandType) (sent : BusResult) : IgnoresOthers (driverCommand t sent) := by
  intro s l
  rw [driverCommand, driverCommand, apply_ite (withOthers l)]
  refine if_congr Iff.rfl rfl ?_
  refine andThen_ignoresOthers (fun s1 l => onSize_ignoresOthers (fun s2 l => ?_) s1 l)
    (exec_ignoresOthers (.prepcmd ..)) (s.bindTo .tx) l
  cases sent <;> rfl

theorem driverRead_ignoresOthers (got : BusResult) (bytes : List Byte) : IgnoresOthers (driverRead got bytes) := by
  intro s l
  rw [driverRead, driverRead, apply_ite (withOthers l), apply_ite (withOthers l), apply_ite (withOthers l),
    apply_ite (withOthers l)]
  refine if_congr Iff.rfl rfl (if_congr Iff.rfl rfl (if_congr Iff.rfl rfl (if_congr Iff.rfl rfl ?_)))
  exact receiveExactly_ignoresOthers (fun _ _ => rfl) _ _ _ (s.asksReceive _) l

theorem driverValidate_ignoresOthers (t : CommandType) : IgnoresOthers (driverValidate t) := by
  intro s l
  rw [driverValidate, driverValidate, apply_ite (withOthers l)]
  refine if_congr Iff.rfl rfl ?_
  refine andThen_ignoresOthers (fun s1 l => ?_) (exec_ignoresOthers (.valpkt ..)) (s.bindTo .rx) l
  have h : (s1.beside l).resp = s1.resp := rfl
  rw [h]
  rcases s1.resp with _ | ⟨n | st | ⟨a, b⟩⟩ <;> rfl

theorem perform_ignoresOthers {a : HostAct} (huse : ∀ k, a ≠ .use k) (hconstruct : a ≠ .construct) :
    IgnoresOthers (perform a) := by
  cases a with
  | word p => exact runWord_ignoresOthers p
  | bind b => exact fun _ _ => rfl
  | poke b offset v => exact hostPoke_ignoresOthers b offset v
  | transmitEnded => exact fun _ _ => rfl
  | receiveLapsed bytes => exact fun s l => congrArg Host.Outcome.next (receiveLapsed_beside bytes s l)
  | delayElapsed => exact fun _ _ => rfl
  | construct => exact absurd rfl hconstruct
  | use k => exact absurd rfl (huse k)
  | driverInit c h1 h2 => exact driverInit_ignoresOthers c h1 h2
  | driverCommand t sent => exact driverCommand_ignoresOthers t sent
  | driverRead got bytes => exact driverRead_ignoresOthers got bytes
  | driverValidate t => exact driverValidate_ignoresOthers t

end Sys2Proof.Machine

namespace Sys2Proof.Proofs
open Sys2Proof.Machine Sys2Proof.Claims

/-! ### The statements' words for the model's -/

theorem callTimeout_eq (t : Transport) : t.callTimeout = timeoutOf t.style t.timeoutMs := by
  cases h : t.style <;> simp [Transport.callTimeout, timeoutOf, h]

theorem status_eq_statusOf (r : BusResult) : r.status = statusOf r := by cases r <;> rfl

theorem bytesAt_written {m : Memory} (h : m.wf = true) (bytes : List Byte) :
    bytesAt (m.writeBytes 0 bytes) 0 bytes.length = bytes := by
  rw [bytesAt_eq_readBytes, readBytes_writeBytes h]

/-! ### How a round of `init` ends, as the statements say it -/

theorem settled_iff {style : TransportStyle} {h : Handshake} :
    Settled style h ↔ settles style h.settled = true := by cases style <;> simp [Settled, settles]

section
variable {m : Memory} (hm : m.wf = true) {ack : List Byte} (hl : ack.length = 10) (p : Config)
include hm hl

theorem readBytes_ten_written : (m.writeBytes 0 ack).readBytes 0 10 = ack := hl ▸ readBytes_writeBytes hm 0 ack

/-- Of ten bytes that have come VALACK accepts the Ack that echoes class and id, and nothing else (R138). -/
theorem validateAck_written_eq_ok (cls id : Byte) : validateAck p true (m.writeBytes 0 ack) 10 cls id = .ok ↔
    ack = frame p p.clsAck p.idAckAck [cls, id] := by
  rw [validateAck_ten_eq_ok, readBytes_ten_written hm hl]
  exact and_iff_right rfl

/-- At SIZE 10 VALACK's answer is settled by the ten bytes, wherever they stand (R47, R153). -/
theorem ackVerdict_validateAck :
    AckVerdict p ack (validateAck p true (m.writeBytes 0 ack) 10 p.clsCfg p.idCfgValset) := by
  rintro s rfl hfree hholds
  rw [bytesAt_eq_readBytes] at hholds
  have hagree : AgreeWithin s.cfg 10 (m.writeBytes 0 ack) s.buf := fun _ a ha _ => by
    have hwritten := read_of_holds (readBytes_ten_written hm hl) ha
    have hthere := read_of_holds hholds ha
    exact Option.some.inj (hwritten.symm.trans hthere)
  rw [exec_valack_of_free hfree, hagree.validateAck_eq]
  rfl

end

/-- A round that was not good: the status it ends with, and how many of its calls it has made. -/
structure RoundEndedEarly (p : Config) (style : TransportStyle) (h : Handshake) (st : Status) (n : Nat) : Prop where
  not_ok : st ≠ .ok
  not_good : ¬ GoodRound p style h
  status : RoundStatus p style h st
  at_transmit : h.sent ≠ .done → n = 1
  at_delay : h.sent = .done → ¬ Settled style h → n = 2
  at_receive : h.sent = .done → Settled style h → n = 3

section
variable {p : Config} {c : DriverConfig} {h : Handshake} {s : State} (r : RoundReady p c s)
include r

theorem goodRound_of_accepted (a : RoundAccepted h s) : GoodRound p c.style h := by
  obtain rfl := r.cfg
  exact ⟨a.sent, settled_iff.2 (r.style ▸ a.settled), a.got,
    (validateAck_written_eq_ok r.rx_wf a.length _ _ _).1 a.verdict⟩

theorem roundStatus_of_accepted (a : RoundAccepted h s) : RoundStatus p c.style h .ok := by
  obtain rfl := r.cfg
  have hsettled : Settled c.style h := settled_iff.2 (r.style ▸ a.settled)
  have hverdict := a.verdict ▸ ackVerdict_validateAck r.rx_wf a.length s.cfg
  exact ⟨(absurd a.sent ·), fun _ => (absurd hsettled ·), fun _ _ => (absurd a.got ·), fun _ _ _ => hverdict⟩

theorem endedEarly_of_failed {st : Status} {n : Nat} (hst : st ≠ .ok) (f : RoundFailed h s st n) :
    RoundEndedEarly p c.style h st n := by
  obtain rfl := r.cfg
  rcases f with ⟨hs, rfl, rfl⟩ | ⟨hs, hd, rfl, rfl⟩ | ⟨hs, hd, hg, rfl, rfl⟩ | ⟨hs, hd, hg, hl, rfl, rfl⟩
  · exact {
      not_ok := hst
      not_good := fun ⟨hsent, _⟩ => hs hsent
      status := ⟨fun _ => status_eq_statusOf _, (absurd · hs), (absurd · hs), (absurd · hs)⟩
      at_transmit := fun _ => rfl
      at_delay := (absurd · hs)
      at_receive := (absurd · hs) }
  · have hd : ¬ Settled c.style h := by rw [settled_iff, ← r.style, hd]; decide
    exact {
      not_ok := hst
      not_good := fun ⟨_, hsettled, _⟩ => hd hsettled
      status := ⟨(absurd hs ·), fun _ _ => rfl, fun _ => (absurd · hd), fun _ => (absurd · hd)⟩
      at_transmit := (absurd hs ·)
      at_delay := fun _ _ => rfl
      at_receive := fun _ => (absurd · hd) }
  · have hd : Settled c.style h := settled_iff.2 (r.style ▸ hd)
    exact {
      not_ok := hst
      not_good := fun ⟨_, _, hgot, _⟩ => hg hgot
      status := ⟨(absurd hs ·), fun _ => (absurd hd ·), fun _ _ _ => status_eq_statusOf _,
        fun _ _ => (absurd · hg)⟩
      at_transmit := (absurd hs ·)
      at_delay := fun _ => (absurd hd ·)
      at_receive := fun _ _ => rfl }
  · have hd : Settled c.style h := settled_iff.2 (r.style ▸ hd)
    exact {
      not_ok := hst
      not_good := fun ⟨_, _, _, hack⟩ => hst ((validateAck_written_eq_ok r.rx_wf hl _ _ _).2 hack)
      status := ⟨(absurd hs ·), fun _ => (absurd hd ·), fun _ _ => (absurd hg ·),
        fun _ _ _ => ackVerdict_validateAck r.rx_wf hl _⟩
      at_transmit := (absurd hs ·)
      at_delay := fun _ => (absurd hd ·)
      at_receive := fun _ _ => rfl }

/-- A good round goes on with what follows it. -/
theorem handshakeRound_of_good (item : ConfigItem) (val : Word) (k : State → Host.Outcome State Fault Refusal)
    (good : GoodRound p c.style h) :
    ∃ u, handshakeRound item val h s k = k u ∧ RoundEffect item val h.ack 3 s u ∧ u.dev.rxLen = 10 := by
  obtain rfl := r.cfg
  obtain ⟨hs, hd, hg, hack⟩ := good
  have hl : h.ack.length = 10 := by simp [hack]
  have hsettles : settles s.dev.transport.style h.settled = true := r.style ▸ settled_iff.1 hd
  obtain ⟨u, e, hresp, -, heff, hdev⟩ := handshakeRound_accepted k r.txBusy r.awaited hs hsettles hg hl
    ((validateAck_written_eq_ok r.rx_wf hl _ _ _).2 hack)
  exact ⟨u, by rw [e, onAck, hresp], heff, by rw [hdev]⟩

end

/-! ### What `init` asks of the transport -/

/-- What one round asks, going all its way (R152, R161). -/
def roundAsks (p : Config) (c : DriverConfig) (item : ConfigItem) (val : Word) : List TransportCall :=
  [.transmit (BitVec.ofNat 8 (2 * c.address7.toNat)) (itemFrame p item val) (timeoutOf c.style c.timeoutMs),
    .delay p.settleDelayMs,
    .receive (BitVec.ofNat 8 (2 * c.address7.toNat)) 10 (timeoutOf c.style c.timeoutMs)]

theorem itemFrame_itemUbx (p : Config) :
    itemFrame p p.itemUbx 1 = frame p p.clsCfg p.idCfgValset (valsetPayload p p.keyUbx [1]) := by
  rw [itemFrame, ubxWidth_bytes]
  rfl

theorem itemFrame_itemNmea (p : Config) : itemFrame p p.itemNmea 0 =
    frame p p.clsCfg p.idCfgValset (valsetPayload p p.keyNmea (bytesLE p.nmeaWidth.bytes 0)) := rfl

/-- The six calls are one round's and then the other's. -/
theorem initCalls_eq (p : Config) (c : DriverConfig) :
    initCalls p c = roundAsks p c p.itemUbx 1 ++ roundAsks p c p.itemNmea 0 := by
  rw [roundAsks, roundAsks, itemFrame_itemUbx, itemFrame_itemNmea]
  rfl

theorem initCalls_take {n : Nat} (hn : n ≤ 3) (p : Config) (c : DriverConfig) :
    (initCalls p c).take n = (roundAsks p c p.itemUbx 1).take n := by
  rw [initCalls_eq, List.take_append_of_le_length hn]

theorem initCalls_take_add (p : Config) (c : DriverConfig) (n : Nat) :
    (initCalls p c).take (3 + n) = roundAsks p c p.itemUbx 1 ++ (roundAsks p c p.itemNmea 0).take n := by
  rw [initCalls_eq]
  exact List.take_length_add_append (l₁ := roundAsks p c p.itemUbx 1) n

theorem roundFailed_le {h : Handshake} {s : State} {st : Status} {n : Nat} (f : RoundFailed h s st n) : n ≤ 3 := by
  rcases f with ⟨-, -, rfl⟩ | ⟨-, -, -, rfl⟩ | ⟨-, -, -, -, rfl⟩ | ⟨-, -, -, -, -, rfl⟩ <;> decide

/-- The bytes a round sends are the frame it has just written (R153). -/
theorem roundEffect_calls {p : Config} {c : DriverConfig} {item : ConfigItem} {val : Word} {bs : List Byte} {n : Nat}
    {s u : State} (r : RoundReady p c s) (e : RoundEffect item val bs n s u) :
    u.calls = s.calls ++ (roundAsks p c item val).take n := by
  have hframe : (s.tx.writeBytes 0 (itemFrame s.cfg item val)).readBytes 0 (16 + item.width.bytes) =
      itemFrame s.cfg item val := by
    rw [← itemFrame_length s.cfg item val, readBytes_writeBytes r.tx_wf]
  rw [e.calls, roundCalls, e.tx, hframe, r.transport, callTimeout_eq, r.cfg]
  simp only [roundAsks, DriverConfig.toTransport, busAddress_eq]

theorem firstRound_calls {s u : State} {c : DriverConfig} {bs : List Byte} {n : Nat} (hn : n ≤ 3)
    (e : RoundEffect s.cfg.itemUbx 1 bs n (s.zeroed c.toTransport) u) :
    u.calls = s.calls ++ (initCalls s.cfg c).take n := by
  have hcalls := roundEffect_calls (roundReady_zeroed s c) e
  rwa [zeroed_calls, ← initCalls_take hn] at hcalls

theorem secondRound_calls {s v u : State} {c : DriverConfig} {bs1 bs2 : List Byte} {n : Nat}
    (e1 : RoundEffect s.cfg.itemUbx 1 bs1 3 (s.zeroed c.toTransport) v) (e2 : RoundEffect v.cfg.itemNmea 0 bs2 n v u) :
    u.calls = s.calls ++ (initCalls s.cfg c).take (3 + n) := by
  have r1 := roundReady_zeroed s c
  have r2 := r1.after e1
  have hfirst := roundEffect_calls r1 e1
  rw [roundEffect_calls r2 e2, hfirst, r2.cfg, initCalls_take_add, zeroed_calls, List.append_assoc]
  rfl

/-! ### How `init` ends -/

/-- What an `init` whose configuration is accepted leaves: its status, the gate, the transport as given, and the first
`k` of the calls. -/
structure InitLeaves (s : State) (c : DriverConfig) (st : Status) (k : Nat) (t : State) : Prop where
  result : t.dev.result = some st
  gate : t.dev.initialized = true ↔ st = .ok
  transport : t.dev.transport = c.toTransport
  calls : t.calls = s.calls ++ (initCalls s.cfg c).take k

/-- A round that returns its status to the caller leaves the gate shut. -/
theorem initLeaves_of_failed {s u : State} {c : DriverConfig} {st : Status} {k : Nat} (r : RoundReady s.cfg c u)
    (hst : st ≠ .ok) (hcalls : u.calls = s.calls ++ (initCalls s.cfg c).take k) :
    InitLeaves s c st k (u.returnStatus st) where
  result := rfl
  gate := iff_of_false (by simp [r.initialized]) hst
  transport := r.transport
  calls := hcalls

/-- The three ways an `init` whose configuration is accepted can end (R152, R153). -/
theorem driverInit_ends {s t : State} {c : DriverConfig} {h1 h2 : Handshake} (hc : c.toTransport.complete = true)
    (ht : driverInit c h1 h2 s = .next t) : ∃ st k, InitLeaves s c st k t ∧
      (RoundEndedEarly s.cfg c.style h1 st k ∨
      (GoodRound s.cfg c.style h1 ∧ ∃ n, k = 3 + n ∧ RoundEndedEarly s.cfg c.style h2 st n) ∨
      (GoodRound s.cfg c.style h1 ∧ GoodRound s.cfg c.style h2 ∧ RoundStatus s.cfg c.style h2 .ok ∧ st = .ok ∧
        k = 6)) := by
  have r1 := roundReady_zeroed s c
  rcases driverInit_next ht with ⟨hno, -⟩ | ⟨-, ⟨u, st, bs, n, hst, rfl, f, e⟩ |
    ⟨v, u, st, bs, n, hst, rfl, f, e1, a1, e2⟩ | ⟨v, u, rfl, e1, a1, e2, a2⟩⟩
  · simp [hc] at hno
  · exact ⟨st, n, initLeaves_of_failed (r1.after e) hst (firstRound_calls (roundFailed_le f) e),
      .inl (endedEarly_of_failed r1 hst f)⟩
  · have r2 := r1.after e1
    exact ⟨st, 3 + n, initLeaves_of_failed (r2.after e2) hst (secondRound_calls e1 e2),
      .inr (.inl ⟨goodRound_of_accepted r1 a1, n, rfl, endedEarly_of_failed r2 hst f⟩)⟩
  · have r2 := r1.after e1
    exact ⟨.ok, 6, ⟨rfl, iff_of_true rfl rfl, (r2.after e2).transport, secondRound_calls e1 e2⟩,
      .inr (.inr ⟨goodRound_of_accepted r1 a1, goodRound_of_accepted r2 a2, roundStatus_of_accepted r2 a2,
        rfl, rfl⟩)⟩

/-- Two good rounds end in Ok with the gate open, the second's ten bytes received. -/
theorem driverInit_of_good {s : State} {c : DriverConfig} {h1 h2 : Handshake} (hc : c.toTransport.complete = true)
    (hb : s.dev.txBusy = false) (ha : s.dev.rxAwaited = none) (good1 : GoodRound s.cfg c.style h1)
    (good2 : GoodRound s.cfg c.style h2) :
    ∃ v u, driverInit c h1 h2 s = .next ((u.withInitialized true).returnStatus .ok) ∧
      RoundEffect s.cfg.itemUbx 1 h1.ack 3 (s.zeroed c.toTransport) v ∧ RoundEffect v.cfg.itemNmea 0 h2.ack 3 v u ∧
      u.dev.rxLen = 10 := by
  obtain ⟨v, eq1, e1, -⟩ :=
    handshakeRound_of_good (roundReady_zeroed s c) s.cfg.itemUbx 1 (secondRound h2) good1
  obtain ⟨u, eq2, e2, hlen⟩ := handshakeRound_of_good ((roundReady_zeroed s c).after e1) v.cfg.itemNmea 0
    (fun s2 => .next ((s2.withInitialized true).returnStatus .ok)) good2
  exact ⟨v, u, by rw [driverInit_of_free hc hb ha, eq1, secondRound, eq2], e1, e2, hlen⟩

/-! ### The obligations -/

/-- Settles O45: where `command` is ready it completes, and the one end that is left leaves these updates (R154). -/
theorem commandSendsThePoll : Obligations.CommandSendsThePoll := by
  intro s r hw hi hb
  obtain ⟨u, hu⟩ := driverCommand_completes hi hb r
  refine ⟨u, (issue_eq ..).trans hu, ?_⟩
  rcases driverCommand_next hu with ⟨hgated, -⟩ | ⟨-, -, -, rfl⟩
  · simp [hi] at hgated
  have htx : ((s.bindTo .tx).emit (commandFrame s.cfg s.cfg.clsNav s.cfg.idNavPvt)).tx =
      s.tx.writeBytes 0 (frame s.cfg s.cfg.clsNav s.cfg.idNavPvt []) := emit_tx (s.bindTo .tx) _ rfl
  have hsent : (s.tx.writeBytes 0 (frame s.cfg s.cfg.clsNav s.cfg.idNavPvt [])).readBytes 0 8 =
      frame s.cfg s.cfg.clsNav s.cfg.idNavPvt [] := readBytes_writeBytes hw 0 _
  refine ⟨?_, fun a ha => ?_, ?_, ?_, ?_, ?_, ?_, ?_, ?_, ?_⟩
  · simpa [htx, bytesAt_eq_readBytes] using hsent
  · simp [htx, read_writeBytes_out, ha]
  · simpa using emit_tx_rx (s.bindTo .tx) _ rfl
  · simp
  · simp
  · simp
  · simp
  · simp
  · simp [htx, hsent, callTimeout_eq]
  · cases r <;> simp [status_eq_statusOf, hb, Bool.beq_eq_decide_eq]

/-- Settles O46: `read` ready and with room issues its receive and ends as that ends; an arrival, whether or not it is
a frame, is a receive of its bytes. -/
theorem readTakesExactlyOneHundredBytes : Obligations.ReadTakesExactlyOneHundredBytes := by
  rintro s bytes calls hw hi hc ha hcalls
  have hasks : (s.asksReceive 100).calls = calls := by simp [hcalls, callTimeout_eq]
  refine ⟨fun hcap r => (issue_eq ..).trans (driverRead_of_no_room hi hc ha hcap r bytes), fun hcap => ⟨?_, ?_, ?_, ?_⟩⟩
  · intro hst hl
    have hacc : (s.asksReceive 100).accepts bytes.length = true := by simp [State.accepts, ha, hl, hcap]
    refine ⟨((s.asksReceive 100).received bytes).returnStatus .ok, ?_, ?_, fun a h => ?_, ?_⟩
    · rw [issue_eq, perform, driverRead_of_blocking hi hc ha hcap hst, receiveExactly_of_accepts hl hacc]
    · exact hl ▸ bytesAt_written hw bytes
    · exact read_writeBytes_out _ _ _ (.inr (by omega))
    · rw [← hasks, received_returnStatus (s := s.asksReceive 100) ha, hl]
      rfl
  · intro hst hl
    rw [issue_eq, perform, driverRead_of_blocking hi hc ha hcap hst, receiveExactly_of_length_ne hl]
  · intro hst
    refine ⟨_, (issue_eq ..).trans (driverRead_of_eventDriven hi hc ha hcap hst bytes), ?_, fun hl => ?_⟩
    · rw [← hasks]; rfl
    · rw [issue_eq, perform, runWord_wire]
      refine ⟨_, receiveBytes_next.2 ⟨?_, rfl⟩, hl ▸ bytesAt_written hw bytes, ?_, rfl⟩
      · simp [State.accepts, hl, hcap]
      · rw [received_dev]
        exact congrArg (BitVec.ofNat 16) hl
  · intro r hr
    refine ⟨_, (issue_eq ..).trans (driverRead_of_failed hi hc ha hcap hr bytes), bytesAt_written hw _,
      fun a h => ?_, ?_⟩
    · exact read_writeBytes_out _ _ _ (.inr (by omega))
    · rw [← hasks, receiveFailed, received_returnStatus (s := s.asksReceive 100) ha, status_eq_statusOf]
      rfl

/-- Settles O49: a round that ends early ends `init` with its own status, which is not Ok, and the gate is opened
behind the second round alone. -/
theorem initSetsTheGateOnlyOnFullSuccess : Obligations.InitSetsTheGateOnlyOnFullSuccess := by
  intro s t c h1 h2 ht
  rw [issue_eq] at ht
  cases hc : c.toTransport.complete with
  | false =>
    obtain rfl := Host.Outcome.next.inj ((driverInit_of_incomplete hc h1 h2 s).symm.trans ht)
    exact ⟨.invalidParam, rfl, by simp, fun _ => rfl, nofun⟩
  | true =>
    obtain ⟨htr, hrc, hdl⟩ := toTransport_complete_iff.1 hc
    obtain ⟨st, k, leaves, ends⟩ := driverInit_ends hc ht
    refine ⟨st, leaves.result, leaves.gate, by simp [htr, hrc, hdl], fun hok => ?_⟩
    rcases ends with early | ⟨-, n, -, early⟩ | ⟨good1, good2, -⟩
    · exact absurd hok early.not_ok
    · exact absurd hok early.not_ok
    · exact ⟨good1, good2⟩

/-- Settles O50: where a round ended early says how many of its calls it made, and the second round's follow the first's
three. -/
theorem initCallsTheTransportInOrder : Obligations.InitCallsTheTransportInOrder := by
  intro s t c h1 h2 htr hrc hdl ht
  obtain ⟨st, k, leaves, ends⟩ := driverInit_ends (toTransport_complete_iff.2 ⟨htr, hrc, hdl⟩)
    ((issue_eq ..).symm.trans ht)
  refine ⟨k, leaves.calls, ?_⟩
  have hresult : t.dev.result = some .ok → st = .ok := fun hok => Option.some.inj (leaves.result.symm.trans hok)
  rcases ends with early | ⟨good1, n, rfl, early⟩ | ⟨good1, good2, -, rfl, rfl⟩
  · exact ⟨early.at_transmit, early.at_delay, fun hs hd _ => early.at_receive hs hd,
      (absurd · early.not_good), (absurd · early.not_good), (absurd · early.not_good),
      fun hok => absurd (hresult hok) early.not_ok⟩
  · have ⟨hsent1, hsettled1, _, _⟩ := good1
    exact ⟨(absurd hsent1 ·), fun _ => (absurd hsettled1 ·), fun _ _ => (absurd good1 ·),
      fun _ hs => congrArg (3 + ·) (early.at_transmit hs), fun _ hs hd => congrArg (3 + ·) (early.at_delay hs hd),
      fun _ hs hd => congrArg (3 + ·) (early.at_receive hs hd), fun hok => absurd (hresult hok) early.not_ok⟩
  · have ⟨hsent1, hsettled1, _, _⟩ := good1
    have ⟨hsent2, hsettled2, _, _⟩ := good2
    exact ⟨(absurd hsent1 ·), fun _ => (absurd hsettled1 ·), fun _ _ => (absurd good1 ·),
      fun _ => (absurd hsent2 ·), fun _ _ => (absurd hsettled2 ·), fun _ _ _ => rfl, fun _ => rfl⟩

/-- Settles O51: with receives of the declared length `init` completes, and each of its three ends has the status of the
round it ended in. -/
theorem initReturnsTheFirstFailuresStatus : Obligations.InitReturnsTheFirstFailuresStatus := by
  intro s c h1 h2 htr hrc hdl hb ha hl1 hl2
  have hc := toTransport_complete_iff.2 ⟨htr, hrc, hdl⟩
  obtain ⟨t, ht⟩ := driverInit_completes hc hb ha hl1 hl2
  obtain ⟨st, k, leaves, ends⟩ := driverInit_ends hc ht
  refine ⟨t, st, (issue_eq ..).trans ht, leaves.result, leaves.gate, ?_⟩
  rcases ends with early | ⟨good1, n, -, early⟩ | ⟨good1, good2, status2, rfl, -⟩
  · exact ⟨fun _ => ⟨early.not_ok, early.status⟩, (absurd · early.not_good)⟩
  · exact ⟨(absurd good1 ·), fun _ => early.status⟩
  · exact ⟨(absurd good1 ·), fun _ => status2⟩

/-- Settles O52: both rounds go on, so the second's frame and Ack are the last bytes written, over a frame and an Ack at
the buffers' start that are no longer. -/
theorem initSucceedsOnGoodAcks : Obligations.InitSucceedsOnGoodAcks := by
  intro s c h1 h2 htr hrc hdl hb ha hs1 hd1 hg1 hack1 hs2 hd2 hg2 hack2
  have hwidth := width_le s.cfg.nmeaWidth
  have hl1 : h1.ack.length = 10 := by simp [hack1]
  have hl2 : h2.ack.length = 10 := by simp [hack2]
  obtain ⟨v, u, hu, e1, e2, hlen⟩ := driverInit_of_good (toTransport_complete_iff.2 ⟨htr, hrc, hdl⟩) hb ha
    ⟨hs1, fun _ => hd1, hg1, hack1⟩ ⟨hs2, fun _ => hd2, hg2, hack2⟩
  have r2 := (roundReady_zeroed s c).after e1
  have r3 := r2.after e2
  have htx : u.tx = v.tx.writeBytes 0 (itemFrame s.cfg s.cfg.itemNmea 0) := r2.cfg ▸ e2.tx
  have hitem : (itemFrame s.cfg s.cfg.itemNmea 0).length = 16 + s.cfg.nmeaWidth.bytes := itemFrame_length ..
  refine ⟨_, (issue_eq ..).trans hu, rfl, rfl, ?_, fun a h => ?_, ?_, ?_, fun a h => ?_, hlen, r3.currentCommand, ?_,
    secondRound_calls e1 e2⟩
  · rw [returnStatus_tx, withInitialized_tx, htx, ← itemFrame_itemNmea, ← hitem]
    exact bytesAt_written r2.tx_wf _
  · rw [returnStatus_tx, withInitialized_tx, htx, read_writeBytes_out _ _ _ (.inr (by omega)), e1.tx,
      read_writeBytes_out _ _ _ (.inr (by rw [itemFrame_length, ubxWidth_bytes]; omega))]
    rfl
  · rw [returnStatus_dev, withInitialized_dev, e2.txLen, r2.cfg, BitVec.toNat_ofNat]
    exact itemLength_mod _
  · rw [returnStatus_rx, withInitialized_rx, e2.rx, ← hl2]
    exact bytesAt_written r2.rx_wf _
  · rw [returnStatus_rx, withInitialized_rx, e2.rx, read_writeBytes_out _ _ _ (.inr (by omega)), e1.rx,
      read_writeBytes_out _ _ _ (.inr (by omega))]
    rfl
  · rw [← busAddress_toNat]
    exact congrArg Transport.address8 r3.transport ▸ rfl

/-- Settles O53: VALACK answers Error on a Nack, and `init` returns that before the second round (R153). -/
theorem initAbortsOnTheFirstNack : Obligations.InitAbortsOnTheFirstNack := by
  intro s c h1 h2 hwf htr hrc hdl hb ha hs hd hg hack
  have hl : h1.ack.length = 10 := by simp [hack]
  have r := roundReady_zeroed s c
  have hnak : validateAck s.cfg true (Memory.writeBytes [] 0 h1.ack) 10 s.cfg.clsCfg s.cfg.idCfgValset = .error :=
    validateAck_nak hwf ((readBytes_ten_written rfl hl).trans hack)
  obtain ⟨u, eq, hresp, -, e, -⟩ := handshakeRound_accepted (item := s.cfg.itemUbx) (val := 1) (secondRound h2) r.txBusy
    r.awaited hs (settled_iff.1 fun _ => hd) hg hl hnak
  refine ⟨u.returnStatus .error, ?_, (r.after e).initialized, rfl, ?_,
    (returnStatus_calls u .error).trans (firstRound_calls (le_refl 3) e)⟩
  · rw [issue_eq, perform, driverInit_of_free (toTransport_complete_iff.2 ⟨htr, hrc, hdl⟩) hb ha, eq, onAck, hresp]
  · rw [returnStatus_tx, e.tx, ← itemFrame_itemUbx]
    have hframe := bytesAt_written (m := []) rfl (itemFrame s.cfg s.cfg.itemUbx 1)
    rwa [itemFrame_length, ubxWidth_bytes] at hframe

/-- Settles O54: no entry of the agenda but those two is an update of the transport configuration or of the gate. -/
theorem onlyInitChangesTheTransport : Obligations.OnlyInitChangesTheTransport := by
  intro s t a rest ha ht hinit huse
  rw [step_of_agenda_cons ha] at ht
  exact perform_sameTransport (s := { s with agenda := rest }) ht hinit huse

/-- Settles O55: every entry but those two comes out the same whatever other Devices there are; put beside the Device in
hand the very Devices that are there, and they are seen to stay. -/
theorem devicesDoNotInteract : Obligations.DevicesDoNotInteract := by
  intro s a l huse hconstruct
  have hignores := perform_ignoresOthers huse hconstruct
  refine ⟨?_, fun t ht => hignores.others_eq ((issue_eq ..).symm.trans ht)⟩
  rw [issue_eq, issue_eq]
  exact hignores s l

/-- Settles O57: every end of an accepted `init` leaves the transport as it was given. -/
theorem busAddressIsShiftedLeft : Obligations.BusAddressIsShiftedLeft := by
  intro s t c h1 h2 htr hrc hdl ht
  obtain ⟨st, k, leaves, -⟩ := driverInit_ends (toTransport_complete_iff.2 ⟨htr, hrc, hdl⟩)
    ((issue_eq ..).symm.trans ht)
  have haddress : t.dev.transport.address8 = busAddress c.address7 := congrArg Transport.address8 leaves.transport
  have hlt := c.address7.isLt
  rw [haddress]
  refine ⟨?_, ?_⟩
  · rw [busAddress_toNat]
    omega
  · simp [busAddress]

/-- Settles O41: each of these entries is one update, and a lapsed receive is a receive cut short at the bytes
declared (log 19). -/
theorem transfersEndAsTheTransportSays : Obligations.TransfersEndAsTheTransportSays := by
  refine ⟨fun s => issue_eq .., fun s n bytes hw ha => ?_, fun s bytes ha => ?_, fun s => issue_eq ..⟩
  · refine ⟨s.received (bytes.take n), ?_, bytesAt_written hw _, fun a h => ?_, rfl⟩
    · rw [issue_eq, perform, receiveLapsed_of_awaited ha]
    · rw [received_rx, read_writeBytes_out _ _ _ (.inr (by omega))]
  · rw [issue_eq, perform, receiveLapsed_of_not_awaited ha]

/-- Settles O44: both calls look at the gate and the command before anything else. -/
theorem commandAndReadAreGated : Obligations.CommandAndReadAreGated :=
  ⟨fun _ _ r h => ⟨_, (issue_eq ..).trans (driverCommand_of_gated h r), rfl⟩,
    fun _ r bytes h => ⟨_, (issue_eq ..).trans (driverRead_of_gated h r bytes), rfl⟩⟩

/-- Settles O47: `validate_response` is VALPKT of the receive buffer, and step 6 of R130 leaves SIZE 100 a declared
length of 92. -/
theorem validateResponseIsValpkt : Obligations.ValidateResponseIsValpkt := by
  refine ⟨fun s size ha hsize => ?_,
    fun s c hc => ⟨_, (issue_eq ..).trans (driverValidate_of_unsupported hc s), rfl⟩⟩
  have hfree : (s.bindTo .rx).portFree true = true := (portFree_true _).2 (by simp [ha])
  have hv : s.validateSize = size := by
    rw [hsize, State.validateSize, responseSize_eq]
    rfl
  refine ⟨_, exec_valpkt_of_free hfree .., ?_, fun h100 hok => ?_⟩
  · rw [issue_eq, perform, driverValidate_of_free ha, hv]
    rfl
  · obtain ⟨-, ⟨-, -, -, -, -, -, hlen⟩, -⟩ := validatePacket_eq_ok.1 hok
    rw [h100] at hlen
    have hdeclared : declaredLength s.rx = 92 := by
      have hhundred : (100 : Half).toNat = 100 := rfl
      rw [bindTo_buf, buffer_rx] at hlen
      omega
    exact hdeclared

/-- Settles O56: turning to a Device exchanges it with the one in hand, and so does turning back. -/
theorem devicesKeepTheirOwnState : Obligations.DevicesKeepTheirOwnState := by
  refine ⟨fun s => issue_eq .., fun s k i hi => ?_, fun s k hk => (issue_eq ..).trans (useDevice_of_absent hk)⟩
  obtain ⟨hk, rfl⟩ := List.getElem?_eq_some_iff.1 hi
  refine ⟨_, (issue_eq ..).trans (useDevice_of_present hi), rfl, rfl, rfl, rfl, List.length_set,
    List.getElem?_set_self hk, fun j hj => List.getElem?_set_ne hj.symm, ?_⟩
  rw [issue_eq, perform, useDevice_of_present (List.getElem?_set_self hk), List.set_set]
  exact congrArg (fun l => Host.Outcome.next { s with others := l }) (List.set_getElem_self hk)

end Sys2Proof.Proofs
end

section
/-!
Proofs about how an instruction ends (spec/60_exceptions.md): what can stop it, and the codes of STATUS.
-/
namespace Sys2Proof.Machine

/-! ### What stops a receive, CKSUM and a request -/

/-- A receive faults only for want of room (R40, log 25). -/
theorem receiveBytes_fault {bytes : List Byte} {s : State} {r : Fault} (h : receiveBytes bytes s = .fault r) :
    s.cfg.bufferCapacity < bytes.length := by
  rcases receiveBytes_cases bytes s with ⟨-, e⟩ | ⟨-, e⟩ | ⟨hcap, -⟩
  · cases e.symm.trans h
  · cases e.symm.trans h
  · exact hcap

/-- A receive is refused only for a length other than the one declared (R156, log 23). -/
theorem receiveBytes_refused {bytes : List Byte} {s : State} {r : Refusal} (h : receiveBytes bytes s = .refused r) :
    (∃ n, s.dev.rxAwaited = some n ∧ n ≠ bytes.length) ∧ r = .transferLengthMismatch := by
  rcases receiveBytes_cases bytes s with ⟨-, e⟩ | ⟨hlen, e⟩ | ⟨-, e⟩
  · cases e.symm.trans h
  · cases e.symm.trans h
    exact ⟨hlen, rfl⟩
  · cases e.symm.trans h

/-- CKSUM outside its contract is refused (R121, log 11); within it, it ends on its port as the other operations do. -/
theorem execCksum_cases (bufp : Bool) (ofs count : Half) (s : State) :
    (bufp = false ∧ execCksum bufp ofs count s = .refused .cksumNoBuffer) ∨
    (bufp = true ∧ s.cfg.bufferCapacity < ofs.toNat + count.toNat ∧
      execCksum bufp ofs count s = .refused .cksumPastEnd) ∨
    (∃ after, execCksum bufp ofs count s = onPort bufp s after) := by
  cases bufp with
  | false => exact .inl ⟨rfl, rfl⟩
  | true =>
    by_cases hend : s.cfg.bufferCapacity < ofs.toNat + count.toNat
    · exact .inr (.inl ⟨rfl, hend, execCksum_of_pastEnd hend⟩)
    · exact .inr (.inr ⟨_, by rw [execCksum, if_neg (by simp), if_neg hend]⟩)

/-- A request is CKSUM outside its contract, or ends on its port. -/
theorem exec_of_request {i : Instr} (hi : isRequest i = true) (s : State) :
    (∃ n ofs, i = .cksum false ofs n ∧ exec i s = .refused .cksumNoBuffer) ∨
    (∃ n ofs, i = .cksum true ofs n ∧ s.cfg.bufferCapacity < ofs.toNat + n.toNat ∧
      exec i s = .refused .cksumPastEnd) ∨
    (∃ bufp after, exec i s = onPort bufp s after) := by
  cases i with
  | cksum bufp ofs n =>
    rcases execCksum_cases bufp ofs n s with ⟨rfl, e⟩ | ⟨rfl, hend, e⟩ | ⟨after, e⟩
    · exact .inl ⟨n, ofs, rfl, e⟩
    · exact .inr (.inl ⟨n, ofs, rfl, hend, e⟩)
    · exact .inr (.inr ⟨bufp, after, e⟩)
  | prepcmd bufp => exact .inr (.inr ⟨bufp, _, rfl⟩)
  | prepcfg bufp => exact .inr (.inr ⟨bufp, _, rfl⟩)
  | prepcfgU1 bufp => exact .inr (.inr ⟨bufp, _, rfl⟩)
  | prepcfgU2 bufp => exact .inr (.inr ⟨bufp, _, rfl⟩)
  | prepcfgU4 bufp => exact .inr (.inr ⟨bufp, _, rfl⟩)
  | valpkt bufp => exact .inr (.inr ⟨bufp, _, rfl⟩)
  | valack bufp => exact .inr (.inr ⟨bufp, _, rfl⟩)
  | _ => cases hi

/-- The block's own operations never fault (R178). -/
theorem exec_request_not_fault {i : Instr} (hi : isRequest i = true) {s : State} {r : Fault} : exec i s ≠ .fault r := by
  intro h
  rcases exec_of_request hi s with ⟨_, _, -, e⟩ | ⟨_, _, -, -, e⟩ | ⟨bufp, after, e⟩
  · cases e.symm.trans h
  · cases e.symm.trans h
  · exact onPort_not_fault (e.symm.trans h)

/-- No code lies beyond TransportError's (R171). -/
theorem status_code_le_five (st : Status) : st.code ≤ 5 := by cases st <;> decide

end Sys2Proof.Machine

namespace Sys2Proof.Proofs
open Sys2Proof.Machine Sys2Proof.Claims

/-- Settles O7: a frame kind stops as the receive of its bytes does, and a request as CKSUM's contract and its port say. -/
theorem execStopsOnlyAsNamed : Obligations.ExecStopsOnlyAsNamed := by
  refine ⟨fun i s r h => ?_, fun i s r h => ?_⟩
  · cases hi : isRequest i with
    | true => exact absurd h (exec_request_not_fault hi)
    | false => exact ⟨rfl, receiveBytes_fault ((exec_of_frame hi s).symm.trans h)⟩
  · cases hi : isRequest i with
    | true =>
      rcases exec_of_request hi s with ⟨n, ofs, heq, e⟩ | ⟨n, ofs, heq, hend, e⟩ | ⟨bufp, after, e⟩
      · cases e.symm.trans h
        exact .inl ⟨n, ofs, heq, rfl⟩
      · cases e.symm.trans h
        exact .inr (.inl ⟨n, ofs, heq, hend, rfl⟩)
      · obtain ⟨hbusy, hr⟩ := onPort_refused (e.symm.trans h)
        exact .inr (.inr (.inl ⟨rfl, hbusy, hr⟩))
    | false =>
      obtain ⟨hlen, hr⟩ := receiveBytes_refused ((exec_of_frame hi s).symm.trans h)
      exact .inr (.inr (.inr ⟨rfl, hlen, hr⟩))

/-- Settles O14: six codes by the table, and none above 5. -/
theorem statusCodesAsListed : Obligations.StatusCodesAsListed := by
  refine ⟨rfl, rfl, rfl, rfl, rfl, rfl, fun st => ⟨fun h => ?_, fun h => ?_⟩⟩
  · exact absurd (h ▸ status_code_le_five st) (by decide : ¬ (6 : BitVec 3) ≤ 5)
  · exact absurd (h ▸ status_code_le_five st) (by decide : ¬ (7 : BitVec 3) ≤ 5)

end Sys2Proof.Proofs
end
